-- ==== Sys2Proof/Word.lean ====
section
/-! DEFINITION. The widths of R11 (nibble, controller byte, DDRAM address, command word), and times (R16). -/

namespace Sys2Proof

/-- A nibble, "the unit transferred per enable pulse in 4-bit bus mode" (R11, R17). -/
abbrev Nibble := BitVec 4

/-- A controller byte: an instruction byte or a character byte (R11, R18). -/
abbrev Byte := BitVec 8

/-- A DDRAM address (R11, R60). -/
abbrev DdramAddr := BitVec 7

/-- A command word (R11, R100). -/
abbrev Word := BitVec 16

/-- A time or a length of time in ns, exact and never negative (R8, R16). R16 says a real number; a State must be
comparable data, so the model takes the rationals (log 5). -/
def Time := { q : ℚ // 0 ≤ q }
deriving DecidableEq, Repr, Inhabited, Semifield, LinearOrder, IsStrictOrderedRing, CanonicallyOrderedAdd, FloorSemiring

/-- The time as a rational, for a moment that may lie before the clock's 0. -/
def Time.toRat (t : Time) : ℚ := t.val

end Sys2Proof
end

