-- ==== Sys2Proof/Syntax.lean ====
section
/-! DEFINITION. The six commands of the opcode map (R101): one constructor per row of the opcode table. -/

namespace Sys2Proof

/-- A command with its operands as R103 extracts them. -/
inductive Instr where
  /-- INIT: the power-on handshake (R170). -/
  | init
  /-- CLEAR: blank the display (R190). -/
  | clear
  /-- SETCUR: set the controller's cursor (R193); rows 2 to 15 encode and are rejected (R107). -/
  | setcur (row : Nibble) (column : Byte)
  /-- PUTC: write one character (R156). -/
  | putc (char : Byte)
  /-- SENDB: one controller byte with a chosen RS; `isData` = 1 is a character (R155). -/
  | sendb (isData : Bool) (value : Byte)
  /-- SENDN: one raw nibble (R135). -/
  | sendn (nibble : Nibble)
deriving DecidableEq, Repr

end Sys2Proof
end

