-- ==== Sys2Proof/WellFormed.lean ====
section
/-! DEFINITION. Assembler lines (R110, R111) and the operand ranges the assembler checks. The operands of
`Instr` have exactly their encoded widths, so every `Instr` is well formed; a line's operands are plain
numbers, and the checks of R110 are on them. -/

namespace Sys2Proof

/-- One line of assembler text, operands not yet checked (R110), the pseudo-commands included (R111). -/
inductive AsmLine where
  | init
  | clear
  | setcur (row column : Nat)
  | putc (char : Nat)
  | sendb (value : Nat) (isData : Bool)
  | sendn (nibble : Nat)
  | puts (text : List Nat)
  | sendi (value : Nat)
  | sendd (value : Nat)
deriving DecidableEq, Repr

/-- R110: "An assembler refuses operands out of range: `row` > 15, `column` > 255, `char` > 255, `value` > 255
or `nibble` > 15. It also refuses a character outside 0–255." Rows 2 to 15 pass. -/
def AsmLine.wellFormed : AsmLine → Bool
  | .init => true
  | .clear => true
  | .setcur row column => decide (row ≤ 15) && decide (column ≤ 255)
  | .putc char => decide (char ≤ 255)
  | .sendb value _ => decide (value ≤ 255)
  | .sendn nibble => decide (nibble ≤ 15)
  | .puts text => text.all (fun c => decide (c ≤ 255))
  | .sendi value => decide (value ≤ 255)
  | .sendd value => decide (value ≤ 255)

/-- The assembler line that names a command (R110). -/
def Instr.toLine : Instr → AsmLine
  | .init => .init
  | .clear => .clear
  | .setcur row column => .setcur row.toNat column.toNat
  | .putc char => .putc char.toNat
  | .sendb isData value => .sendb value.toNat isData
  | .sendn nibble => .sendn nibble.toNat

/-- A command is well formed when the assembler takes the line that names it. -/
def Instr.wellFormed (i : Instr) : Bool := i.toLine.wellFormed

end Sys2Proof
end

