-- ==== Sys2Proof/Decode.lean ====
section
/-! DEFINITION. Decoding of the 16-bit command word (R100 to R109), then the encoder. -/

namespace Sys2Proof

/-- Why a word spells no command; both give ILLEGAL_COMMAND. -/
inductive Illegal where
  /-- OP 0x0 or 0x7 to 0xF (R104). -/
  | reservedOpcode
  /-- OP 0x1 to 0x6 with a reserved-zero bit set (R105). -/
  | reservedBits
deriving DecidableEq, Repr

/-- One row of R102: a word is the row's command iff `word & mask = match`. -/
structure OpcodeRow where
  mask : Word
  pattern : Word
deriving DecidableEq, Repr

def OpcodeRow.matches (r : OpcodeRow) (w : Word) : Bool := (w &&& r.mask) == r.pattern

/-- The rows of R102. -/
def rowInit : OpcodeRow := ⟨0xFFFF#16, 0x1000#16⟩
def rowClear : OpcodeRow := ⟨0xFFFF#16, 0x2000#16⟩
def rowSetcur : OpcodeRow := ⟨0xF000#16, 0x3000#16⟩
def rowPutc : OpcodeRow := ⟨0xFF00#16, 0x4000#16⟩
def rowSendb : OpcodeRow := ⟨0xFE00#16, 0x5000#16⟩
def rowSendn : OpcodeRow := ⟨0xFF00#16, 0x6000#16⟩

/-- The opcode map, in the table's order. -/
def opcodeRows : List OpcodeRow := [rowInit, rowClear, rowSetcur, rowPutc, rowSendb, rowSendn]

/-- The field `OP` (R100). -/
def opField (w : Word) : BitVec 4 := w.extractLsb' 12 4

/-- The field `A` (R100). -/
def aField (w : Word) : Nibble := w.extractLsb' 8 4

/-- The field `B` (R100). -/
def bField (w : Word) : Byte := w.extractLsb' 0 8

/-- OP 0x0 and 0x7 to 0xF spell no command (R104, R108). -/
def opReserved (w : Word) : Bool := decide (opField w = 0#4) || decide (7#4 ≤ opField w)

/-- The reserved-zero bits of the word's opcode that are set (R105); a reserved opcode has none of its own. -/
def reservedZeroBits (w : Word) : Word :=
  if opField w = 1#4 then w &&& 0x0FFF#16
  else if opField w = 2#4 then w &&& 0x0FFF#16
  else if opField w = 4#4 then w &&& 0x0F00#16
  else if opField w = 5#4 then w &&& 0x0E00#16
  else if opField w = 6#4 then w &&& 0x0F00#16
  else 0#16

/-- R109: every word decodes to exactly one command or to "illegal", by name. Operands as R103 extracts them;
bits 7:4 of SENDN are ignored (R106). -/
def decode (w : Word) : Except Illegal Instr :=
  if rowInit.matches w then .ok .init
  else if rowClear.matches w then .ok .clear
  else if rowSetcur.matches w then .ok (.setcur (aField w) (bField w))
  else if rowPutc.matches w then .ok (.putc (bField w))
  else if rowSendb.matches w then .ok (.sendb (w.getLsbD 8) (bField w))
  else if rowSendn.matches w then .ok (.sendn (w.extractLsb' 0 4))
  else if opReserved w then .error .reservedOpcode
  else .error .reservedBits

/-- The word of a command, from the bit patterns of R102; SENDN's ignored bits are written as 0 (R110). -/
def encode : Instr → Word
  | .init => 0x1000#16
  | .clear => 0x2000#16
  | .setcur row column => 0x3#4 ++ row ++ column
  | .putc char => 0x40#8 ++ char
  | .sendb isData value => 0b0101000#7 ++ BitVec.ofBool isData ++ value
  | .sendn nibble => 0x60#8 ++ 0#4 ++ nibble

/-- The command word whose low `nbits` bits are those of `w` and whose other bits are 0. The engine has one word
length and no memory to lay bytes out in (R74, R100). -/
def tableWord (nbits w : Nat) : Word := BitVec.ofNat 16 (w % 2 ^ nbits)

/-- What the decoder reads from a table word; a word longer than 16 bits is no command word (R100). -/
def decodeTableWord (nbits w : Nat) : Option Instr :=
  if nbits ≤ 16 then
    match decode (tableWord nbits w) with
    | .ok i => some i
    | .error _ => none
  else none

end Sys2Proof
end

