-- ==== Sys2Proof/Config.lean ====
section
/-! DEFINITION. The configuration record of R8, its conformance minima and reference values, and the free gap of
R259. -/

namespace Sys2Proof

/-- The configuration record `cfg` of R8. All times are in ns. -/
structure Cfg where
  /-- `T_SETUP`: from the data-line (and RS) update to the rising edge of E. -/
  tSetup : Time
  /-- `T_PW`: E high. -/
  tPw : Time
  /-- `T_SETTLE`: after E falls. -/
  tSettle : Time
  /-- `T_INIT_A`: after the first raw nibble 0x3. -/
  tInitA : Time
  /-- `T_INIT_B`: after the second raw nibble 0x3. -/
  tInitB : Time
  /-- `T_INIT_C`: after the third raw nibble 0x3. -/
  tInitC : Time
  /-- `T_EXEC`: after an ordinary full byte and after the raw nibble 0x2. -/
  tExec : Time
  /-- `T_CLEAR`: after Clear Display and the other long instructions. -/
  tClear : Time
  /-- `T_POWERON`: host duty; the engine does not use it (R176). -/
  tPowerOn : Time
  /-- `TICK_NS`: the period of `clk`. -/
  tickNs : Time
  /-- `PINS_BOUND`: bit0 RS, bit1 E, bit2 to bit5 D4 to D7; 1 = bound. -/
  pinsBound : BitVec 6
  /-- `LINE_WIDTH`: no engine rule reads it (R195). -/
  lineWidth : Nat
  /-- `SLACK`: how much longer than its lower bound any gap may be; `none` where it is not supplied (R259). -/
  slack : Option Time
deriving DecidableEq, Repr

/-- The free gaps of R259, "any value ≥ its lower bound": how much longer than its lower bound the k-th gap is.
No body: nothing can be proved about a value of it (log 7). -/
opaque Config.freeGap : Nat → Time

/-- `TICK_NS` is OPEN (D2): numerator and denominator of the reference configuration's clock period, each less one.
No body (log 2). -/
opaque Config.tickNum : Nat
opaque Config.tickDen : Nat

/-- The reference configuration REF of R8. -/
def Cfg.reference : Cfg where
  tSetup := 1000
  tPw := 1000
  tSettle := 1000
  tInitA := 4100000
  tInitB := 100000
  tInitC := 100000
  tExec := 50000
  tClear := 1640000
  tPowerOn := 15000000
  tickNs := ((Config.tickNum : Time) + 1) / ((Config.tickDen : Time) + 1)
  pinsBound := 0b111111#6
  lineWidth := 16
  slack := none

/-- The minima of R8's table outside the `T_…` fields: `TICK_NS` > 0 and `LINE_WIDTH` ≥ 1. -/
def Cfg.wellFormed (c : Cfg) : Bool := decide (0 < c.tickNs) && decide (1 ≤ c.lineWidth)

/-- "A configuration below any minimum is *non-conforming*", and "a conforming configuration meets every minimum" (C2):
every minimum of R8's table. -/
def Cfg.conforming (c : Cfg) : Bool :=
  decide (1000 ≤ c.tSetup) && decide (1000 ≤ c.tPw) && decide (1000 ≤ c.tSettle) &&
  decide (4100000 ≤ c.tInitA) && decide (100000 ≤ c.tInitB) && decide (100000 ≤ c.tInitC) &&
  decide (43000 ≤ c.tExec) && decide (1640000 ≤ c.tClear) && decide (15000000 ≤ c.tPowerOn) && c.wellFormed

/-- `CFG_OK` = 1 iff every bit of `PINS_BOUND` is 1 (R42). -/
def Cfg.pinsOk (c : Cfg) : Bool := c.pinsBound == 0b111111#6

/-- How much longer than its lower bound the k-th gap is: free, at most `SLACK` where `SLACK` is given (R131, R259). -/
def Cfg.gap (c : Cfg) (k : Nat) : Time :=
  match c.slack with
  | none => Config.freeGap k
  | some b => if b = 0 then 0 else min (Config.freeGap k) b

/-- R41: a realisation counts at least `ceil(t / TICK_NS)` ticks for a hold of `t` ns. -/
def Cfg.holdTicks (c : Cfg) (t : Time) : Nat := ⌈t / c.tickNs⌉₊

end Sys2Proof
end

