-- ==== Sys2Proof/Machine/State.lean ====
section
/-! DEFINITION. The engine's state (R49), its event trace (R16), its primitives (R14), its host-side inputs (R34), and
the state after reset (R35, R241). Plain data only. -/

namespace Sys2Proof.Machine

/-- A pin write: the output pin and its new level (R130). `true` is high (R15). D is one 4-bit group, D[0] = D4
(R15, R136). No write targets RW (R31). -/
inductive PinWrite where
  | rs (level : Bool)
  | e (level : Bool)
  | d (level : Nibble)
deriving DecidableEq, Repr

/-- The result codes of R210; codes 5 to 7 are never produced and have no constructor (I11). -/
inductive ResultCode where
  | ok
  | invalidArgument
  | illegalCommand
  | notInitialized
  | configError
deriving DecidableEq, Repr

/-- The internal flags a `SetFlag` primitive writes: INITIALIZED alone (R14, R170). -/
inductive Flag where
  | initialized
deriving DecidableEq, Repr

/-- The primitives of R14; `raise` is `complete` with a nonzero code. -/
inductive Prim where
  /-- `Emit(p, v)` (R130). -/
  | emit (p : PinWrite)
  /-- `Hold(t)` (R131). -/
  | hold (t : Time)
  /-- `SetFlag(f, b)`. -/
  | setFlag (f : Flag) (b : Bool)
  /-- `Complete(r)` (R213). -/
  | complete (r : ResultCode)
deriving DecidableEq, Repr

/-- The events of R16. `reset` is the model's own (log 6): a reset edge and the configuration it starts. -/
inductive Event where
  /-- `Accept(cmd)`: the engine takes a command. -/
  | accept (word : Word)
  /-- `Pin(p, v)`: a pin write. -/
  | pin (p : PinWrite)
  /-- `Done(r)`: a command completes. -/
  | done (r : ResultCode)
  /-- An edge at which `rst` = 1 (R242 records no `Done`). -/
  | reset (cfg : Cfg)
deriving DecidableEq, Repr

/-- The event trace, oldest first: each event with its time in ns (R16). -/
abbrev Trace := List (Time × Event)

/-- How the host waits for completion (R227: "poll `BUSY`/`DONE`, or wait on `cmd_ready`"; log 4). -/
inductive HostWait where
  /-- The host waits on `cmd_ready`: the engine makes all its steps up to completion before the host moves. -/
  | untilReady
  /-- The host polls: it may move (read STATUS, change `rst`) between any two engine steps. -/
  | poll
deriving DecidableEq, Repr

/-- A command the host will present, and how many ns it lets pass first, beyond one clock period (R258). -/
structure Request where
  delay : Time
  word : Word
deriving DecidableEq, Repr

/-- Why the machine stops. -/
inductive Fault where
  /-- Raised by an engine step of a State with BUSY = 1 and no primitive left, which no rule gives a meaning and no run
  reaches (every expansion ends in `Complete`, R38, R213). Safe: the model stops. -/
  | sequencerStuck
deriving DecidableEq, Repr

/-- Why an instruction has no meaning. -/
inductive Refusal where
  /-- Raised by an arm of `exec` whose instruction has no meaning yet (none is left). Safe: the model stops. -/
  | notModelled (mnemonic : String)
deriving DecidableEq, Repr

/-- The machine: the engine's state (R49), its configuration (R8), the host-side inputs (R34), and the model's own
record of time and events. -/
structure State where
  /-- Output pin RS (R30). -/
  rs : Bool
  /-- Output pin E (R30). -/
  e : Bool
  /-- Output pins D[3:0] (R30). -/
  d : Nibble
  /-- STATUS.BUSY (R37). -/
  busy : Bool
  /-- STATUS.INITIALIZED (R39). -/
  initialized : Bool
  /-- STATUS.DONE (R40). -/
  done : Bool
  /-- STATUS.RESULT (R40, R210). -/
  result : ResultCode
  /-- CMDL, the latched command word (R38). -/
  cmdl : Word
  /-- EXP, the running command's expansion (R38). -/
  exp : List Prim
  /-- UPC, the sequencer position (R38). -/
  upc : Nat
  /-- The hold timer: ns that remain until the next primitive may run (R41). -/
  hold : Time
  /-- The configuration, fixed from reset to reset (R9). -/
  cfg : Cfg
  /-- Input `rst` (R34, R240). -/
  rst : Bool
  /-- Input `cmd_valid` (R34). -/
  cmdValid : Bool
  /-- Input `cmd_word` (R34). -/
  cmdWord : Word
  /-- The configuration the platform supplies for the next reset (R9, R244). -/
  platformCfg : Cfg
  /-- How long the host waits before its next edge, in ns (log 3). -/
  hostDelay : Time
  /-- How the host waits for completion (log 4). -/
  hostWait : HostWait
  /-- The commands the host presents after the one on the port (log 3). -/
  stream : List Request
  /-- The time, in ns (R16, log 5). -/
  now : Time
  /-- The event trace (R16, log 6). -/
  trace : Trace
  /-- The number of free gaps used so far (log 7). -/
  freeCount : Nat
deriving DecidableEq, Repr

/-- Right after reset (R35, R241): idle, uninitialized, pins low. CMDL is the model's choice (log 1), the configuration
is REF (log 2), and the host presents nothing (log 3). -/
def State.reset : State where
  rs := false
  e := false
  d := 0#4
  busy := false
  initialized := false
  done := false
  result := .ok
  cmdl := 0#16
  exp := []
  upc := 0
  hold := 0
  cfg := Cfg.reference
  rst := false
  cmdValid := false
  cmdWord := 0#16
  platformCfg := Cfg.reference
  hostDelay := 0
  hostWait := .untilReady
  stream := []
  now := 0
  trace := []
  freeCount := 0

/-- What the outside drives before an edge: the signals of R34 and the host's own choices. -/
structure Inputs where
  rst : Bool
  cmdValid : Bool
  cmdWord : Word
  platformCfg : Cfg
  hostDelay : Time
  hostWait : HostWait
deriving DecidableEq, Repr

end Sys2Proof.Machine
end

