-- ==== Sys2Proof/Machine/Operands.lean ====
section
/-! DEFINITION. Operand arithmetic: nibble split (R64, R152), the nibble mask (R133), the DDRAM address of a cursor
position (R192), the hold after a byte (R153, R154). -/

namespace Sys2Proof.Machine

/-- `value[7:4]`, sent first (R64, R150). -/
def highNibble (value : Byte) : Nibble := value.extractLsb' 4 4

/-- `value[3:0]`, sent second (R64, R150). -/
def lowNibble (value : Byte) : Nibble := value.extractLsb' 0 4

/-- `n[3:0]`: "only the low 4 bits are used" (R133). -/
def maskNibble (n : Nat) : Nibble := BitVec.ofNat 4 n

/-- `ddramAddress` of R192, the sum without truncation. Only rows 0 and 1 reach it (R194). -/
def ddramAddress (row : Nibble) (column : Byte) : Nat :=
  if row = 0#4 then column.toNat else 0x40 + column.toNat

/-- `instr` of R192: `0x80 | (address & 0x7F)`. -/
def setDdramByte (row : Nibble) (column : Byte) : Byte :=
  0x80#8 ||| (BitVec.ofNat 8 (ddramAddress row column) &&& 0x7F#8)

/-- R194: only rows 0 and 1 are defined. -/
def rowIllegal (row : Nibble) : Bool := decide (2#4 ≤ row)

/-- `LONG` of R154: Clear Display and Return Home. -/
def longInstruction (value : Byte) : Bool := value == 0x01#8 || value == 0x02#8 || value == 0x03#8

/-- `holdAfter` of R153. -/
def holdAfter (cfg : Cfg) (value : Byte) (isData : Bool) : Time :=
  if !isData && longInstruction value then cfg.tClear else cfg.tExec

end Sys2Proof.Machine
end

