-- ==== Sys2Proof/Machine/Flags.lean ====
section
/-! DEFINITION. STATUS and the other computed outputs (R31, R34, R36), and the acceptance checks with their priority
(R212). -/

namespace Sys2Proof.Machine

/-- The code of R210. -/
def ResultCode.code : ResultCode → BitVec 3
  | .ok => 0#3
  | .invalidArgument => 1#3
  | .illegalCommand => 2#3
  | .notInitialized => 3#3
  | .configError => 4#3

/-- `CFG_OK` (R42). -/
def State.cfgOk (s : State) : Bool := s.cfg.pinsOk

/-- Output pin RW, "driven to 0 at all times" (R31). -/
def State.rw (_ : State) : Bool := false

/-- `cmd_ready = ¬BUSY ∧ ¬rst` (R34). -/
def State.cmdReady (s : State) : Bool := !s.busy && !s.rst

/-- The STATUS register (R36): bit 0 BUSY, 1 INITIALIZED, 2 DONE, 5:3 RESULT, 6 CFG_OK, 7 zero. -/
def State.status (s : State) : Byte :=
  0#1 ++ BitVec.ofBool s.cfgOk ++ s.result.code ++ BitVec.ofBool s.done ++ BitVec.ofBool s.initialized ++
    BitVec.ofBool s.busy

/-- `check` of R212, on the command word. -/
def checkWord (c : Word) (initialized cfgOk : Bool) : ResultCode :=
  if !cfgOk then .configError
  else if opReserved c then .illegalCommand
  else if reservedZeroBits c ≠ 0#16 then .illegalCommand
  else if opField c = 3#4 ∧ rowIllegal (aField c) then .invalidArgument
  else if (opField c = 2#4 ∨ opField c = 3#4 ∨ opField c = 4#4 ∨ opField c = 5#4) ∧ initialized = false then .notInitialized
  else .ok

/-- The same priority for a decoded command: CONFIG_ERROR, ILLEGAL_COMMAND, INVALID_ARGUMENT, NOT_INITIALIZED (R212).
`illegal`, `badArgument` and `needsInit` say which of the checks the word can fail. -/
def State.acceptCheck (s : State) (illegal badArgument needsInit : Bool) : ResultCode :=
  if !s.cfgOk then .configError
  else if illegal then .illegalCommand
  else if badArgument then .invalidArgument
  else if needsInit && !s.initialized then .notInitialized
  else .ok

end Sys2Proof.Machine
end

