-- ==== Sys2Proof/Machine/Ops.lean ====
section
/-! DEFINITION. The named operations over the state: performing a primitive (R14, R38), accepting a command (R112),
completing one (R213), an error result (R214), reset (R240, R242), the host's inputs (R34). -/

namespace Sys2Proof.Machine

/-- The outcome of a step of this machine. -/
abbrev Result := Host.Outcome State Fault Refusal

/-- Set an output pin's level (R130). -/
def State.setPin (p : PinWrite) (s : State) : State :=
  match p with
  | .rs v => { s with rs := v }
  | .e v => { s with e := v }
  | .d v => { s with d := v }

/-- All pending holds elapse (R41). -/
def State.elapse (s : State) : State := { s with now := s.now + s.hold, hold := 0 }

/-- The gap before an event is longer than its lower bound by a free amount (R131, R259). -/
def State.spendGap (s : State) : State := { s with now := s.now + s.cfg.gap s.freeCount, freeCount := s.freeCount + 1 }

/-- Append an event to the trace, at the present time (R16). -/
def State.record (ev : Event) (s : State) : State := { s with trace := s.trace ++ [(s.now, ev)] }

/-- `UPC <- UPC + 1` (R38). -/
def State.advance (s : State) : State := { s with upc := s.upc + 1 }

/-- `Emit(p, v)` (R130): the pin takes its level and the trace an event. -/
def State.emit (p : PinWrite) (s : State) : State := (s.spendGap.setPin p).record (.pin p)

/-- `Hold(t)` adds `t` ns to the hold timer (R41). -/
def State.addHold (t : Time) (s : State) : State := { s with hold := s.hold + t }

/-- `SetFlag(f, b)` (R14). -/
def State.setFlag (f : Flag) (b : Bool) (s : State) : State :=
  match f with
  | .initialized => { s with initialized := b }

/-- `RESULT <- r`, `DONE <- 1`, `BUSY <- 0` (R213); EXP and UPC are empty when the engine is idle (C7). -/
def State.finish (r : ResultCode) (s : State) : State :=
  { s with result := r, done := true, busy := false, exp := [], upc := 0 }

/-- `Complete(r)` (R213). -/
def State.complete (r : ResultCode) (s : State) : State := (s.spendGap.record (.done r)).finish r

/-- Perform one primitive and move the sequencer on (R38). -/
def State.perform (p : Prim) (s : State) : State :=
  match p with
  | .emit w => (s.emit w).advance
  | .hold t => (s.addHold t).advance
  | .setFlag f b => (s.setFlag f b).advance
  | .complete r => s.complete r

/-- One engine step (R38): `EXP[UPC]` is taken only when all holds before it have elapsed. -/
def State.engineStep (s : State) : Result :=
  if s.hold ≠ 0 then .next s.elapse
  else
    match s.exp[s.upc]? with
    | some p => .next (s.perform p)
    | none => .fault .sequencerStuck

/-- All engine steps up to completion. -/
def State.runPrims : List Prim → State → Result
  | [], _ => .fault .sequencerStuck
  | .complete r :: _, s => .next (s.elapse.perform (.complete r))
  | .emit w :: ps, s => runPrims ps (s.elapse.perform (.emit w))
  | .hold t :: ps, s => runPrims ps (s.elapse.perform (.hold t))
  | .setFlag f b :: ps, s => runPrims ps (s.elapse.perform (.setFlag f b))

/-- The engine runs what is left of its command (R69). -/
def State.runToCompletion (s : State) : Result := State.runPrims (s.exp.drop s.upc) s

/-- After an acceptance: a polling host moves next, a waiting one lets the engine run to completion (R227, log 4). -/
def State.proceed (s : State) : Result :=
  match s.hostWait with
  | .poll => .next s
  | .untilReady => s.runToCompletion

/-- A step with BUSY = 1: one engine step under a polling host, all of them under a waiting one (R227, log 4). -/
def State.continueCommand (s : State) : Result :=
  match s.hostWait with
  | .poll => s.engineStep
  | .untilReady => s.runToCompletion

/-- `BUSY <- 1`, `DONE <- 0`, `EXP <- expansion`, `UPC <- 0` (R38, R112). -/
def State.load (expansion : List Prim) (s : State) : State :=
  { s with busy := true, done := false, exp := expansion, upc := 0 }

/-- A command that passes its checks: its own expansion runs and completes OK (R212). -/
def State.runCommand (body : List Prim) (s : State) : Result := (s.load (body ++ [.complete .ok])).proceed

/-- The engine's only "exception" (R214, R219): a command that fails a check expands to the single primitive
`Complete(r)` (R38, R212). Nothing is saved, no control flow is redirected, and there is no return. -/
def State.raise (r : ResultCode) (s : State) : Result := (s.load [.complete r]).proceed

/-- Acceptance with its checks decided: run or raise (R212). -/
def State.acceptCommand (check : ResultCode) (body : List Prim) (s : State) : Result :=
  match check with
  | .ok => s.runCommand body
  | .invalidArgument => s.raise .invalidArgument
  | .illegalCommand => s.raise .illegalCommand
  | .notInitialized => s.raise .notInitialized
  | .configError => s.raise .configError

/-- A word that spells no command (R104, R105, R212). -/
def State.rejectWord (s : State) : Result := s.raise (s.acceptCheck true false false)

/-- The host's next command takes the port, or `cmd_valid` falls (R113: the host keeps its word up to acceptance;
log 3). -/
def State.nextRequest (s : State) : State :=
  match s.stream with
  | [] => { s with cmdValid := false, hostDelay := 0 }
  | r :: rest => { s with cmdValid := true, cmdWord := r.word, hostDelay := r.delay, stream := rest }

/-- The accepting edge, at least one clock period after the last completion (R258): `CMDL <- cmd_word` (R112), the
trace records `Accept(cmd_word)`, and the host moves on. -/
def State.latch (s : State) : State :=
  (State.record (.accept s.cmdWord)
    { s with now := s.now + (s.cfg.tickNs + s.hostDelay), cmdl := s.cmdWord }).nextRequest

/-- An edge with `rst` = 1 (R240, R242): every element of R35 takes its reset value, the running command is aborted
without a `Done`, and the platform's configuration holds from here on (R9). -/
def State.applyReset (s : State) : State :=
  State.record (.reset s.platformCfg)
    { s with
      rs := false, e := false, d := 0#4, busy := false, initialized := false, done := false, result := .ok,
      cmdl := 0#16, exp := [], upc := 0, hold := 0, cfg := s.platformCfg, now := s.now + s.hostDelay }

/-- A command word on the port of a ready engine. -/
def State.present (w : Word) (s : State) : State :=
  { s with rst := false, busy := false, cmdValid := true, cmdWord := w }

/-- The outside changes the inputs (R34). -/
def State.drive (inp : Inputs) (s : State) : State :=
  { s with
    rst := inp.rst, cmdValid := inp.cmdValid, cmdWord := inp.cmdWord, platformCfg := inp.platformCfg,
    hostDelay := inp.hostDelay, hostWait := inp.hostWait }

end Sys2Proof.Machine
end

