-- ==== Sys2Proof/Machine/Transmitter.lean ====
section
/-! DEFINITION. The Bus Transmitter (R132 to R137): pulseEnable, sendNibble, SENDN. -/

namespace Sys2Proof.Machine

/-- `pulseEnable()` (R132). -/
def pulseEnable (cfg : Cfg) : List Prim := [.emit (.e true), .hold cfg.tPw, .emit (.e false), .hold cfg.tSettle]

/-- `sendNibble(n)` (R133): any value, masked to its low 4 bits; RS is not touched. -/
def sendNibble (cfg : Cfg) (n : Nat) : List Prim := [.emit (.d (maskNibble n)), .hold cfg.tSetup] ++ pulseEnable cfg

/-- SENDN's expansion before `Complete(OK)` (R135). -/
def sendnBody (cfg : Cfg) (nibble : Nibble) : List Prim := sendNibble cfg nibble.toNat

/-- SENDN (R135): it does not require INITIALIZED. -/
def execSendn (nibble : Nibble) (s : State) : Result :=
  s.acceptCommand (s.acceptCheck false false false) (sendnBody s.cfg nibble)

end Sys2Proof.Machine
end

