-- ==== Sys2Proof/Machine/Multiplexer.lean ====
section
/-! DEFINITION. The Command/Data Multiplexer (R150 to R157): sendByte, SENDB, PUTC. -/

namespace Sys2Proof.Machine

/-- `sendByte(value, isData)` (R150): RS once, then the high nibble, then the low one. -/
def sendByte (cfg : Cfg) (value : Byte) (isData : Bool) : List Prim :=
  [.emit (.rs isData)] ++ sendNibble cfg (highNibble value).toNat ++ sendNibble cfg (lowNibble value).toNat

/-- SENDB's expansion before `Complete(OK)` (R155). -/
def sendbBody (cfg : Cfg) (isData : Bool) (value : Byte) : List Prim :=
  sendByte cfg value isData ++ [.hold (holdAfter cfg value isData)]

/-- PUTC's expansion before `Complete(OK)` (R156). -/
def putcBody (cfg : Cfg) (char : Byte) : List Prim := sendByte cfg char true ++ [.hold cfg.tExec]

/-- SENDB (R155). -/
def execSendb (isData : Bool) (value : Byte) (s : State) : Result :=
  s.acceptCommand (s.acceptCheck false false true) (sendbBody s.cfg isData value)

/-- PUTC (R156). -/
def execPutc (char : Byte) (s : State) : Result :=
  s.acceptCommand (s.acceptCheck false false true) (putcBody s.cfg char)

end Sys2Proof.Machine
end

