-- ==== Sys2Proof/Machine/Sequencer.lean ====
section
/-! DEFINITION. The Initialization Sequencer (R170 to R179): INIT. -/

namespace Sys2Proof.Machine

/-- A raw nibble with its hold: no RS handling (R173). -/
def rawNibble (cfg : Cfg) (n : Nat) (t : Time) : List Prim := sendNibble cfg n ++ [.hold t]

/-- An instruction byte with its hold. -/
def instructionByte (cfg : Cfg) (value : Byte) (t : Time) : List Prim := sendByte cfg value false ++ [.hold t]

/-- INIT's expansion before `Complete(OK)` (R170), in §4.3's order (R175, C1). -/
def initBody (cfg : Cfg) : List Prim :=
  [.emit (.rs false)] ++
  rawNibble cfg 0x3 cfg.tInitA ++ rawNibble cfg 0x3 cfg.tInitB ++ rawNibble cfg 0x3 cfg.tInitC ++
  rawNibble cfg 0x2 cfg.tExec ++
  instructionByte cfg 0x28#8 cfg.tExec ++ instructionByte cfg 0x0C#8 cfg.tExec ++
  instructionByte cfg 0x06#8 cfg.tExec ++ instructionByte cfg 0x01#8 cfg.tClear ++
  [.setFlag .initialized true]

/-- INITIALIZED falls at the acceptance of an INIT that passes its checks, and only then (R171, R212). -/
def State.clearInitialized (check : ResultCode) (s : State) : State :=
  if check = .ok then s.setFlag .initialized false else s

/-- INIT (R170): accepted whether or not INITIALIZED = 1 (R177). -/
def execInit (s : State) : Result :=
  (s.clearInitialized (s.acceptCheck false false false)).acceptCommand (s.acceptCheck false false false) (initBody s.cfg)

end Sys2Proof.Machine
end

