-- ==== Sys2Proof/Machine/Session.lean ====
section
/-! DEFINITION. The Display Session sequencer (R190 to R199): CLEAR, SETCUR; and every command's expansion (R38). -/

namespace Sys2Proof.Machine

/-- CLEAR's expansion before `Complete(OK)` (R190). -/
def clearBody (cfg : Cfg) : List Prim := instructionByte cfg 0x01#8 cfg.tClear

/-- SETCUR's expansion before `Complete(OK)` (R193). -/
def setcurBody (cfg : Cfg) (row : Nibble) (column : Byte) : List Prim :=
  instructionByte cfg (setDdramByte row column) cfg.tExec

/-- CLEAR (R190). -/
def execClear (s : State) : Result := s.acceptCommand (s.acceptCheck false false true) (clearBody s.cfg)

/-- SETCUR (R193): the row is checked (R194), the column is not (R195). -/
def execSetcur (row : Nibble) (column : Byte) (s : State) : Result :=
  s.acceptCommand (s.acceptCheck false (rowIllegal row) true) (setcurBody s.cfg row column)

/-- A command's own expansion before `Complete(OK)` (R38). -/
def bodyOf (cfg : Cfg) : Instr → List Prim
  | .init => initBody cfg
  | .clear => clearBody cfg
  | .setcur row column => setcurBody cfg row column
  | .putc char => putcBody cfg char
  | .sendb isData value => sendbBody cfg isData value
  | .sendn nibble => sendnBody cfg nibble

/-- Which checks of R212 a command can fail beyond CONFIG_ERROR, and its verdict (R211). -/
def checkOf (s : State) : Instr → ResultCode
  | .init => s.acceptCheck false false false
  | .clear => s.acceptCheck false false true
  | .setcur row _ => s.acceptCheck false (rowIllegal row) true
  | .putc _ => s.acceptCheck false false true
  | .sendb _ _ => s.acceptCheck false false true
  | .sendn _ => s.acceptCheck false false false

end Sys2Proof.Machine
end

