-- ==== Sys2Proof/Machine/Dispatch.lean ====
section
/-! DEFINITION. One arm per command. -/

namespace Sys2Proof.Machine

/-- The meaning of a command accepted in state `s`. -/
def exec (i : Instr) (s : State) : Host.Outcome State Fault Refusal :=
  match i with
  | .init => Sys2Proof.Machine.execInit s
  | .clear => Sys2Proof.Machine.execClear s
  | .setcur row column => Sys2Proof.Machine.execSetcur row column s
  | .putc char => Sys2Proof.Machine.execPutc char s
  | .sendb isData value => Sys2Proof.Machine.execSendb isData value s
  | .sendn nibble => Sys2Proof.Machine.execSendn nibble s

end Sys2Proof.Machine
end

