-- ==== Sys2Proof/Machine/Step.lean ====
section
/-! DEFINITION. One step of the machine: what happens up to the next edge at which the host moves (R34, R38, R112,
R240). -/

namespace Sys2Proof.Machine

/-- One step. `rst` = 1 resets (R240). Otherwise a busy engine goes on with its command (R38), and an idle one accepts
the presented word (R112) or waits for one (R227). DESIGN CHOICE (log 19): that acceptance may be at the very first edge
with `rst` = 0, for a word already on the port there. -/
def step (s : State) : Host.Outcome State Fault Refusal :=
  if s.rst then .next s.applyReset
  else if s.busy then s.continueCommand
  else if s.cmdValid then
    match decode s.cmdWord with
    | .ok i => exec i s.latch
    | .error _ => s.latch.rejectWord
  else .next s

/-- The table's word, presented on the port of a ready engine (log 8). -/
def State.withFetchWord (s : State) (nbits w : Nat) : State := s.present (tableWord nbits w)

/-- One step after the outside has set the inputs. -/
def edge (inp : Inputs) (s : State) : Host.Outcome State Fault Refusal := step (s.drive inp)

/-- A run under given inputs, one set for each step. -/
def runEdges : List Inputs → State → Host.Outcome State Fault Refusal
  | [], s => .next s
  | inp :: rest, s =>
    match edge inp s with
    | .next t => runEdges rest t
    | .fault f => .fault f
    | .refused r => .refused r

end Sys2Proof.Machine
end

