-- ==== Sys2Proof/Machine/Assembler.lean ====
section
/-! DEFINITION. The assembler (R110, R111): a line of text to an `AsmLine`, an `AsmLine` to commands, a program to
command words. Text is a list of characters; how the spec's lines are cut into words is log 9. -/

namespace Sys2Proof.Machine

/-- The commands of one line; the pseudo-commands expand as R111 says. -/
def expandLine : AsmLine → List Instr
  | .init => [.init]
  | .clear => [.clear]
  | .setcur row column => [.setcur (BitVec.ofNat 4 row) (BitVec.ofNat 8 column)]
  | .putc char => [.putc (BitVec.ofNat 8 char)]
  | .sendb value isData => [.sendb isData (BitVec.ofNat 8 value)]
  | .sendn nibble => [.sendn (BitVec.ofNat 4 nibble)]
  | .puts text => text.map (fun c => .putc (BitVec.ofNat 8 c))
  | .sendi value => [.sendb false (BitVec.ofNat 8 value)]
  | .sendd value => [.sendb true (BitVec.ofNat 8 value)]

/-- The words of a line, refused (`none`) where an operand is out of range (R110). -/
def assembleLine (l : AsmLine) : Option (List Word) :=
  if l.wellFormed then some ((expandLine l).map encode) else none

/-- The words of a program, line after line. -/
def assemble : List AsmLine → Option (List Word)
  | [] => some []
  | l :: ls =>
    match assembleLine l, assemble ls with
    | some ws, some rest => some (ws ++ rest)
    | _, _ => none

/-- A decimal digit's value. -/
def decDigit (c : Char) : Option Nat := if '0'.toNat ≤ c.toNat ∧ c.toNat ≤ '9'.toNat then some (c.toNat - '0'.toNat) else none

/-- A hexadecimal digit's value, either case. -/
def hexDigit (c : Char) : Option Nat :=
  if 'a'.toNat ≤ c.toNat ∧ c.toNat ≤ 'f'.toNat then some (c.toNat - 'a'.toNat + 10)
  else if 'A'.toNat ≤ c.toNat ∧ c.toNat ≤ 'F'.toNat then some (c.toNat - 'A'.toNat + 10)
  else decDigit c

/-- Digits in a base, most significant first, onto an accumulator. -/
def digits (base : Nat) (value : Char → Option Nat) : Nat → List Char → Option Nat
  | acc, [] => some acc
  | acc, c :: cs =>
    match value c with
    | some v => digits base value (acc * base + v) cs
    | none => none

/-- A number, decimal or `0x` hex, or a character literal (R110). -/
def number : List Char → Option Nat
  | ['\'', c, '\''] => some c.toNat
  | '0' :: 'x' :: c :: cs => digits 16 hexDigit 0 (c :: cs)
  | c :: cs => digits 10 decDigit 0 (c :: cs)
  | [] => none

/-- Where a scan of a line stands: outside quotes, in a character literal, in a text. -/
inductive Quote where
  | plain
  | char
  | text
deriving DecidableEq, Repr

/-- The line up to a `;` that no quote holds (R110). -/
def stripComment : Quote → List Char → List Char
  | _, [] => []
  | .plain, ';' :: _ => []
  | .plain, '\'' :: c :: cs => '\'' :: c :: stripComment .char cs
  | .char, '\'' :: cs => '\'' :: stripComment .plain cs
  | .plain, '"' :: cs => '"' :: stripComment .text cs
  | .text, '"' :: cs => '"' :: stripComment .plain cs
  | q, c :: cs => c :: stripComment q cs

/-- A blank. -/
def isBlank (c : Char) : Bool := c == ' ' || c == '\t' || c == '\r'

/-- Drop blanks at both ends. -/
def trim (cs : List Char) : List Char := ((cs.dropWhile isBlank).reverse.dropWhile isBlank).reverse

/-- The first word of a trimmed line, and the rest. -/
def firstWord (cs : List Char) : List Char × List Char := (cs.takeWhile (fun c => !isBlank c), trim (cs.dropWhile (fun c => !isBlank c)))

/-- The operands of a line, cut at its first comma that is not the character of a literal. -/
def splitComma : List Char → List (List Char)
  | [] => [[]]
  | '\'' :: c :: '\'' :: cs =>
    match splitComma cs with
    | p :: ps => ('\'' :: c :: '\'' :: p) :: ps
    | [] => [['\'', c, '\'']]
  | ',' :: cs => [] :: splitComma cs
  | c :: cs =>
    match splitComma cs with
    | p :: ps => (c :: p) :: ps
    | [] => [[c]]

/-- The text between the double quotes of a PUTS line. -/
def quotedText : List Char → Option (List Nat)
  | '"' :: cs =>
    match cs.reverse with
    | '"' :: r => if r.all (fun c => c != '"') then some (r.reverse.map Char.toNat) else none
    | _ => none
  | _ => none

/-- One operand. -/
def operand1 (make : Nat → AsmLine) (ops : List (List Char)) : Option AsmLine :=
  match ops with
  | [a] => (number a).map make
  | _ => none

/-- `<row>, <column>`. -/
def operandsSetcur (ops : List (List Char)) : Option AsmLine :=
  match ops with
  | [a, b] =>
    match number a, number b with
    | some r, some c => some (.setcur r c)
    | _, _ => none
  | _ => none

/-- `<value>, cmd` or `<value>, data`. -/
def operandsSendb (ops : List (List Char)) : Option AsmLine :=
  match ops with
  | [a, b] =>
    if b = ['c', 'm', 'd'] then (number a).map (fun v => .sendb v false)
    else if b = ['d', 'a', 't', 'a'] then (number a).map (fun v => .sendb v true)
    else none
  | _ => none

/-- A line without its comment and outer blanks, by its mnemonic (R110, R111). -/
def parseCommand (cs : List Char) : Option AsmLine :=
  let mnemonic := (firstWord cs).1
  let rest := (firstWord cs).2
  let ops := (splitComma rest).map trim
  if mnemonic = ['I', 'N', 'I', 'T'] then (if rest = [] then some .init else none)
  else if mnemonic = ['C', 'L', 'E', 'A', 'R'] then (if rest = [] then some .clear else none)
  else if mnemonic = ['S', 'E', 'T', 'C', 'U', 'R'] then operandsSetcur ops
  else if mnemonic = ['P', 'U', 'T', 'C'] then operand1 .putc ops
  else if mnemonic = ['S', 'E', 'N', 'D', 'B'] then operandsSendb ops
  else if mnemonic = ['S', 'E', 'N', 'D', 'N'] then operand1 .sendn ops
  else if mnemonic = ['P', 'U', 'T', 'S'] then (quotedText rest).map .puts
  else if mnemonic = ['S', 'E', 'N', 'D', 'I'] then operand1 .sendi ops
  else if mnemonic = ['S', 'E', 'N', 'D', 'D'] then operand1 .sendd ops
  else none

/-- One line of text: nothing, one command or pseudo-command, or refused (`none`). -/
def parseLine (cs : List Char) : Option (List AsmLine) :=
  let body := trim (stripComment .plain cs)
  if body = [] then some [] else (parseCommand body).map (fun l => [l])

/-- The words of a program text, one line a list (R110). -/
def assembleText : List (List Char) → Option (List Word)
  | [] => some []
  | cs :: rest =>
    match (parseLine cs).bind assemble, assembleText rest with
    | some ws, some more => some (ws ++ more)
    | _, _ => none

end Sys2Proof.Machine
end

