-- ==== Sys2Proof/Machine/Memory.lean ====
section
/-! DEFINITION. The controller's DDRAM as the reference observer sees it (R60, R80): 7-bit addresses, one 8-bit code
per address. An address that is not listed reads as UNKNOWN (`none`), which is "any value" (R80). -/

namespace Sys2Proof.Machine

/-- Known DDRAM cells: addresses strictly rising; an unlisted address is UNKNOWN. -/
abbrev Memory := List Host.Cell

/-- The number of DDRAM addresses, 0x00 to 0x7F (R60). -/
def ddramSize : Nat := 128

/-- The cell at an address, `none` where it is UNKNOWN. -/
def Memory.read : Memory → Nat → Option Byte
  | [], _ => none
  | (k, b) :: m, a => if k = a then some b else Memory.read m a

/-- `DDRAM[a] <- b` (R14, R85), keeping the addresses rising. -/
def Memory.write : Memory → Nat → Byte → Memory
  | [], a, b => [(a, b)]
  | (k, v) :: m, a, b =>
    if a < k then (a, b) :: (k, v) :: m
    else if a = k then (a, b) :: m
    else (k, v) :: Memory.write m a b

/-- Every address UNKNOWN. -/
def Memory.unknown : Memory := []

/-- `DDRAM[a] <- b` for all `a` (R84). -/
def Memory.fill (b : Byte) : Memory := (List.range ddramSize).map (fun a => (a, b))

/-- Addresses from `lo` up, strictly rising, all in the DDRAM space. -/
def Memory.risesFrom : Nat → Memory → Bool
  | _, [] => true
  | lo, (k, _) :: m => decide (lo ≤ k) && decide (k < ddramSize) && Memory.risesFrom (k + 1) m

/-- The canonical form. -/
def Memory.wf (m : Memory) : Bool := Memory.risesFrom 0 m

end Sys2Proof.Machine
end

