-- ==== Sys2Proof/Machine/Observer.lean ====
section
/-! DEFINITION. The reference observer (R80 to R87): a function from the engine's trace to what can be said about the
controller. `none` is UNKNOWN: "A model must treat UNKNOWN as 'any value' and must never assume one." -/

namespace Sys2Proof.Machine

/-- `sync` of R80. -/
inductive Sync where
  | unsync
  | syncing (k : Fin 4)
  | fourBit
deriving DecidableEq, Repr

/-- `phase` of R80. -/
inductive Phase where
  | hi
  | lo
deriving DecidableEq, Repr

/-- `mode` of R80: the last Function Set, Display Control and Entry Mode bytes seen. -/
structure ControllerMode where
  function : Option Byte
  display : Option Byte
  entry : Option Byte
deriving DecidableEq, Repr

/-- The observer's state (R80); `none` is UNKNOWN. -/
structure View where
  sync : Option Sync
  phase : Option Phase
  hi : Option Nibble
  rsHi : Option Bool
  ac : Option DdramAddr
  ddram : Memory
  mode : ControllerMode
deriving DecidableEq, Repr

/-- "the observer's whole state becomes UNKNOWN". -/
def View.unknown : View where
  sync := none
  phase := none
  hi := none
  rsHi := none
  ac := none
  ddram := Memory.unknown
  mode := ⟨none, none, none⟩

/-- "The initial state is `sync = UNSYNC`, with everything else UNKNOWN" (R80). -/
def View.initial : View := { View.unknown with sync := some .unsync }

/-- The controller's address rule outside the two ranges of R85, `none` where it is not supplied (`CTRL_NEXT_AC`). -/
abbrev CtrlNextAc := Option (DdramAddr → DdramAddr)

/-- `next(a)` of R85, defined under the entry mode 0x06 only. -/
def nextAc (ctrl : CtrlNextAc) (entry : Option Byte) (a : DdramAddr) : Option DdramAddr :=
  if entry = some 0x06#8 then
    if a ≤ 0x26#7 ∨ (0x40#7 ≤ a ∧ a ≤ 0x66#7) then some (a + 1#7) else ctrl.map (fun next => next a)
  else none

/-- Execute an instruction byte (R84). -/
def View.instruction (b : Byte) (v : View) : View :=
  if b = 0x01#8 then { v with ddram := Memory.fill 0x20#8, ac := some 0#7 }
  else if b.getLsbD 7 then { v with ac := some (b.extractLsb' 0 7) }
  else if b = 0x28#8 then { v with mode := { v.mode with function := some b } }
  else if b = 0x0C#8 then { v with mode := { v.mode with display := some b } }
  else if b = 0x06#8 then { v with mode := { v.mode with entry := some b } }
  else View.unknown

/-- Execute a character byte (R85). DESIGN CHOICE (log 18): an address that no display shows (outside 0x00-0x27 and
0x40-0x67, R61, G1) is a cell like any other here. -/
def View.character (ctrl : CtrlNextAc) (b : Byte) (v : View) : View :=
  match v.ac with
  | some a => { v with ddram := v.ddram.write a.toNat b, ac := nextAc ctrl v.mode.entry a }
  | none => { v with ddram := Memory.unknown }

/-- Execute a byte with its register select (R83). -/
def View.execute (ctrl : CtrlNextAc) (rs : Bool) (b : Byte) (v : View) : View :=
  if rs then v.character ctrl b else v.instruction b

/-- One latched nibble `n` with register select `r` (R82, R83). -/
def View.latch (ctrl : CtrlNextAc) (r : Bool) (n : Nibble) (v : View) : View :=
  match v.sync with
  | none => v
  | some .unsync => v
  | some (.syncing k) =>
    if h : k.val < 3 then { v with sync := some (.syncing ⟨k.val + 1, by omega⟩) }
    else { v with sync := some .fourBit, phase := some .hi }
  | some .fourBit =>
    match v.phase, v.hi, v.rsHi with
    | some .hi, _, _ => { v with hi := some n, rsHi := some r, phase := some .lo }
    | some .lo, some h, some rh =>
      if r = rh then View.execute ctrl rh (h ++ n) { v with phase := some .hi } else View.unknown
    | _, _, _ => View.unknown

/-- What the observer is told of the controller: its address rule, and when its supply came up on the clock of the
trace (R244; before 0 if it came up before the trace begins). -/
structure Controller where
  nextAc : CtrlNextAc
  supplyUp : ℚ

/-- At time `t`, `T_POWERON` has passed since the controller's supply came up (R176, R244). -/
def powerOnMet (c : Cfg) (supplyUp : ℚ) (t : Time) : Bool := decide (supplyUp + c.tPowerOn.toRat ≤ t.toRat)

/-- The observer's working state: the view, and what it needs to see latches (R81) and violated holds (R86). -/
structure Tracker where
  /-- The configuration in force. -/
  cfg : Cfg
  /-- Pin levels so far. -/
  rs : Bool
  e : Bool
  d : Nibble
  /-- The time of the last event. -/
  lastAt : Time
  /-- What is left of the accepted command's expansion, to know the holds due before the next event. -/
  plan : List Prim
  /-- The view as rules R82 to R85 leave it. -/
  view : View
  /-- The view may not be read until the next INIT completes (R86). -/
  poisoned : Bool
  /-- An INIT is running and nothing of R86 has happened since its acceptance. -/
  initClean : Bool
deriving DecidableEq, Repr

/-- Before the first event. DESIGN CHOICE (log 21): nothing of R86 has happened yet, so the view may be read, also while
the first INIT still runs. -/
def Tracker.start (cfg : Cfg) : Tracker where
  cfg := cfg
  rs := false
  e := false
  d := 0#4
  lastAt := 0
  plan := []
  view := View.initial
  poisoned := false
  initClean := false

/-- The holds due before the next event, and the rest of the plan from that event on (R131). -/
def dueHolds : List Prim → Time × List Prim
  | .hold t :: ps => ((dueHolds ps).1 + t, (dueHolds ps).2)
  | .setFlag _ _ :: ps => dueHolds ps
  | .emit p :: ps => (0, .emit p :: ps)
  | .complete r :: ps => (0, .complete r :: ps)
  | [] => (0, [])

/-- "the observer's whole state becomes UNKNOWN until the next INIT completes" (R86). -/
def Tracker.poison (k : Tracker) : Tracker := { k with view := View.unknown, poisoned := true, initClean := false }

/-- The time between this event and the last one holds every hold due between them, or the view is lost (R86). -/
def Tracker.checkHolds (t : Time) (k : Tracker) : Tracker :=
  if k.lastAt + (dueHolds k.plan).1 ≤ t then k else k.poison

/-- Move past an event of the plan. -/
def Tracker.pass (t : Time) (k : Tracker) : Tracker := { k with lastAt := t, plan := (dueHolds k.plan).2.tail }

/-- An `Accept` event. R82's `Accept(INIT)` is an INIT that passes its checks: one that ends in CONFIG_ERROR leaves
the observer as it is. One accepted before `T_POWERON` has passed leaves the controller in an unknown state (R245). -/
def Tracker.onAccept (supplyUp : ℚ) (t : Time) (w : Word) (k : Tracker) : Tracker :=
  match decode w with
  | .ok i =>
    if i = .init ∧ k.cfg.pinsOk then
      if powerOnMet k.cfg supplyUp t then
        { k with
          lastAt := t, plan := bodyOf k.cfg i, view := { k.view with sync := some (.syncing 0) }, initClean := true }
      else { k.poison with lastAt := t, plan := bodyOf k.cfg i }
    else { k with lastAt := t, plan := bodyOf k.cfg i, initClean := false }
  | .error _ => { k with lastAt := t, plan := [], initClean := false }

/-- A latch (R81); one made with `sync = UNSYNC` changes nothing (R82) and loses the reading (R86). -/
def Tracker.latch (ctrl : CtrlNextAc) (k : Tracker) : Tracker :=
  if k.view.sync = some .unsync then { k with poisoned := true, initClean := false }
  else { k with view := k.view.latch ctrl k.rs k.d }

/-- A pin write. DESIGN CHOICE (log 22): every output pin reaches its own line of the controller, so a level of the trace
is the level the controller sees. The nibble is latched at the E falling event that follows a rising one (R81). -/
def Tracker.onPin (ctrl : CtrlNextAc) (p : PinWrite) (k : Tracker) : Tracker :=
  match p with
  | .rs v => { k with rs := v }
  | .d v => { k with d := v }
  | .e true => { k with e := true }
  | .e false => if k.e then { (k.latch ctrl) with e := false } else k

/-- A `Done` event. An INIT that completes with nothing of R86 in between makes the view readable (R86). -/
def Tracker.onDone (r : ResultCode) (k : Tracker) : Tracker :=
  if r = .ok ∧ k.initClean then { k with plan := [], poisoned := false, initClean := false }
  else { k with plan := [], initClean := false }

/-- A reset edge: no reading is meaningful until the next INIT completes (R86, R242, log 10). -/
def Tracker.onReset (t : Time) (cfg : Cfg) (k : Tracker) : Tracker :=
  { k.poison with cfg := cfg, rs := false, e := false, d := 0#4, lastAt := t, plan := [] }

/-- One event. -/
def Tracker.onEvent (ctl : Controller) (k : Tracker) (ev : Time × Event) : Tracker :=
  match ev.2 with
  | .accept w => k.onAccept ctl.supplyUp ev.1 w
  | .pin p => ((k.checkHolds ev.1).pass ev.1).onPin ctl.nextAc p
  | .done .ok => ((k.checkHolds ev.1).pass ev.1).onDone .ok
  | .done r => (k.pass ev.1).onDone r
  | .reset cfg => k.onReset ev.1 cfg

/-- The whole trace. -/
def track (ctl : Controller) (cfg : Cfg) (tr : Trace) : Tracker := tr.foldl (Tracker.onEvent ctl) (Tracker.start cfg)

/-- What may be read: UNKNOWN while R86 says so, and always under a non-conforming configuration (R10, D28). -/
def Tracker.reading (k : Tracker) : View := if k.poisoned || !k.cfg.conforming then View.unknown else k.view

/-- The reference observer: from a trace that begins under `cfg` to the controller's state. -/
def observe (ctl : Controller) (cfg : Cfg) (tr : Trace) : View := (track ctl cfg tr).reading

/-- What the trace so far says about the controller. -/
def State.controller (ctl : Controller) (s : State) : View := observe ctl s.cfg s.trace

end Sys2Proof.Machine
end

