-- ==== Sys2Proof/Safety.lean ====
section
/-! DEFINITION. What claims are stated in: readings of a trace (R16), the legal states of the sequencer (R38, C7), the
pulse contract (R246, R247), what a command never touches. -/

namespace Sys2Proof.Machine

/-! ## Readings of a trace -/

/-- The events without their times. -/
def eventsOf (tr : Trace) : List Event := tr.map Prod.snd

/-- The pin levels of R16. -/
structure Levels where
  rs : Bool
  e : Bool
  d : Nibble
deriving DecidableEq, Repr

/-- The reset levels (R35). -/
def Levels.reset : Levels := ⟨false, false, 0#4⟩

/-- The levels after one more event. -/
def Levels.after (l : Levels) (ev : Event) : Levels :=
  match ev with
  | .pin (.rs v) => { l with rs := v }
  | .pin (.e v) => { l with e := v }
  | .pin (.d v) => { l with d := v }
  | .reset _ => Levels.reset
  | .accept _ => l
  | .done _ => l

/-- The levels at the end of a trace. -/
def levelsOf (tr : Trace) : Levels := (eventsOf tr).foldl Levels.after Levels.reset

/-- What an event writes to RS; a reset edge writes its reset value (R242, log 6). -/
def rsWritten : Event → Option Bool
  | .pin (.rs v) => some v
  | .pin (.e _) => none
  | .pin (.d _) => none
  | .reset _ => some false
  | .accept _ => none
  | .done _ => none

/-- What an event writes to E. -/
def eWritten : Event → Option Bool
  | .pin (.rs _) => none
  | .pin (.e v) => some v
  | .pin (.d _) => none
  | .reset _ => some false
  | .accept _ => none
  | .done _ => none

/-- What an event writes to D. -/
def dWritten : Event → Option Nibble
  | .pin (.rs _) => none
  | .pin (.e _) => none
  | .pin (.d v) => some v
  | .reset _ => some 0#4
  | .accept _ => none
  | .done _ => none

/-- "The level of pin `p` at time `t` is the value of the last `Pin(p, ·)` event with a timestamp ≤ t in trace order.
If there is none, it is the reset value of the pin" (R16). -/
def lastWritten {α : Type} (written : Event → Option α) (resetValue : α) (tr : Trace) (t : Time) : α :=
  ((tr.filter (fun ev => decide (ev.1 ≤ t))).filterMap (fun ev => written ev.2)).getLast?.getD resetValue

/-- The levels of the pins at time `t`, as R16 reads them off a trace. -/
def levelsAt (tr : Trace) (t : Time) : Levels :=
  ⟨lastWritten rsWritten false tr t, lastWritten eWritten false tr t, lastWritten dWritten 0#4 tr t⟩

/-- The configuration in force at the end of a trace that begins under `c`. -/
def cfgAfter (c : Cfg) (ev : Event) : Cfg :=
  match ev with
  | .reset c' => c'
  | .accept _ => c
  | .pin _ => c
  | .done _ => c

def traceCfg (c : Cfg) (tr : Trace) : Cfg := (eventsOf tr).foldl cfgAfter c

/-- "timestamps never decrease" (R16). -/
def chronological (tr : Trace) : Prop := tr.Pairwise (fun a b => a.1 ≤ b.1)

/-- The trace agrees with the machine: times in order and none in the future, pin levels, configuration. -/
structure State.TraceAgrees (s : State) : Prop where
  times : chronological s.trace
  past : ∀ ev ∈ s.trace, ev.1 ≤ s.now
  levels : levelsOf s.trace = ⟨s.rs, s.e, s.d⟩
  config : traceCfg s.cfg s.trace = s.cfg

/-- One event's part in R134: E events alternate 1, 0, 1, 0, starting with 1; a reset starts again from low. `none`
is a broken pattern. -/
def pulseAfter (level : Option Bool) (ev : Event) : Option Bool :=
  match level, ev with
  | some l, .pin (.e v) => if v = !l then some v else none
  | some _, .reset _ => some false
  | some l, .pin (.rs _) => some l
  | some l, .pin (.d _) => some l
  | some l, .accept _ => some l
  | some l, .done _ => some l
  | none, _ => none

/-- The level of E where the trace keeps R134, `none` where it does not. -/
def pulseLevel (tr : Trace) : Option Bool := (eventsOf tr).foldl pulseAfter (some false)

/-! ## Legal states of the sequencer -/

/-- What is left of an expansion fits the level of E (R134, R247): E is written 1 and 0 in turn, RS and D only while
E is low, and the one `Complete` is last and finds E low (R213). -/
def planShape : Bool → List Prim → Bool
  | _, [] => false
  | e, .complete _ :: ps => !e && ps.isEmpty
  | e, .emit (.e v) :: ps => (v == !e) && planShape v ps
  | e, .emit (.rs _) :: ps => !e && planShape e ps
  | e, .emit (.d _) :: ps => !e && planShape e ps
  | e, .hold _ :: ps => planShape e ps
  | e, .setFlag _ b :: ps => !e && b && decide (ps = [.complete .ok])

/-- EXP is the expansion of CMDL (R38), or the single `Complete(r)` of a failed check (R212). -/
def State.Expands (s : State) : Prop :=
  (∃ i, decode s.cmdl = .ok i ∧ s.exp = bodyOf s.cfg i ++ [.complete .ok]) ∨ (∃ r, r ≠ .ok ∧ s.exp = [.complete r])

/-- The legal states: nothing is left of a command when the engine is idle (C7, R134, R222); a running command's rest
fits the pins; INITIALIZED = 0 while INIT runs (R171); EXP belongs to CMDL (R38). -/
structure State.Legal (s : State) : Prop where
  idle : s.busy = false → s.exp = [] ∧ s.upc = 0 ∧ s.hold = 0 ∧ s.e = false
  running : s.busy = true → planShape s.e (s.exp.drop s.upc) = true
  initFlag : s.busy = true → .setFlag .initialized true ∈ s.exp.drop s.upc → s.initialized = false
  expands : s.busy = true → s.Expands

/-! ## The pulse contract -/

/-- When RS or D last changed, when E last rose and fell; `none` where it has not since reset. -/
structure PulseClocks where
  cfg : Cfg
  e : Bool
  dataAt : Option Time
  riseAt : Option Time
  fallAt : Option Time
deriving DecidableEq, Repr

/-- At least `d` ns have passed at `t` since `at?`. -/
def elapsed (at? : Option Time) (d t : Time) : Bool :=
  match at? with
  | none => true
  | some a => decide (a + d ≤ t)

def PulseClocks.start (c : Cfg) : PulseClocks := ⟨c, false, none, none, none⟩

/-- One event under the contract (R246, R247); `none` where it breaks it. RS and D change only while E is low and
`T_SETTLE` after it fell; E rises only `T_SETUP` after they changed and `T_SETTLE` after it fell; E falls only `T_PW`
after it rose. A reset is the exception (R242) and starts again. -/
def PulseClocks.after (k : PulseClocks) (t : Time) (ev : Event) : Option PulseClocks :=
  match ev with
  | .pin (.rs _) => if !k.e && elapsed k.fallAt k.cfg.tSettle t then some { k with dataAt := some t } else none
  | .pin (.d _) => if !k.e && elapsed k.fallAt k.cfg.tSettle t then some { k with dataAt := some t } else none
  | .pin (.e true) =>
    if !k.e && elapsed k.dataAt k.cfg.tSetup t && elapsed k.fallAt k.cfg.tSettle t then
      some { k with e := true, riseAt := some t }
    else none
  | .pin (.e false) => if k.e && elapsed k.riseAt k.cfg.tPw t then some { k with e := false, fallAt := some t } else none
  | .accept _ => some k
  | .done _ => some k
  | .reset c => some (PulseClocks.start c)

/-- A whole trace that begins under `c` with E low: the clocks at its end, `none` where the contract is broken. -/
def pulseMonitor (c : Cfg) (tr : Trace) : Option PulseClocks :=
  tr.foldl (fun k ev => k.bind (fun k => k.after ev.1 ev.2)) (some (PulseClocks.start c))

/-- The rest of an expansion keeps the contract when it starts at time `t` and every gap has its lower bound. -/
def planKeeps : PulseClocks → Time → List Prim → Bool
  | k, t, [] => !k.e && elapsed k.fallAt k.cfg.tSettle t
  | k, t, .hold h :: ps => planKeeps k (t + h) ps
  | k, t, .setFlag _ _ :: ps => planKeeps k t ps
  | k, t, .complete _ :: ps => planKeeps k t ps
  | k, t, .emit p :: ps =>
    match k.after t (.pin p) with
    | some k' => planKeeps k' t ps
    | none => false

/-- The trace keeps the contract so far, and what is left of the running command will. -/
structure State.PulseContract (s : State) : Prop where
  contract : ∃ c k, pulseMonitor c s.trace = some k ∧ k.cfg = s.cfg ∧
    planKeeps k (s.now + s.hold) (s.exp.drop s.upc) = true

/-! ## What a command leaves alone -/

/-- What no command writes: CMDL (written by the acceptance itself), the configuration and the host's side. -/
structure Untouched (s t : State) : Prop where
  cmdl : t.cmdl = s.cmdl
  cfg : t.cfg = s.cfg
  rst : t.rst = s.rst
  cmdValid : t.cmdValid = s.cmdValid
  cmdWord : t.cmdWord = s.cmdWord
  platformCfg : t.platformCfg = s.platformCfg
  hostDelay : t.hostDelay = s.hostDelay
  hostWait : t.hostWait = s.hostWait
  stream : t.stream = s.stream

/-- The output pins keep their levels. -/
structure SamePins (s t : State) : Prop where
  rs : t.rs = s.rs
  e : t.e = s.e
  d : t.d = s.d

/-- A command has completed with `r` and the engine is idle (R213, C7). -/
structure Completed (r : ResultCode) (t : State) : Prop where
  busy : t.busy = false
  done : t.done = true
  result : t.result = r
  exp : t.exp = []
  upc : t.upc = 0
  hold : t.hold = 0

/-- The pin events of a full byte: RS, then the high nibble and its pulse, then the low nibble and its pulse (R71,
R150). -/
def byteEvents (isData : Bool) (value : Byte) : List Event :=
  [.pin (.rs isData), .pin (.d (value.extractLsb' 4 4)), .pin (.e true), .pin (.e false),
   .pin (.d (value.extractLsb' 0 4)), .pin (.e true), .pin (.e false)]

/-- The pin event a primitive emits, if any (R130). -/
def emitted : Prim → Option Event
  | .emit p => some (.pin p)
  | .hold _ => none
  | .setFlag _ _ => none
  | .complete _ => none

/-- The pin events of a raw nibble (R133). -/
def nibbleEvents (n : Nibble) : List Event := [.pin (.d n), .pin (.e true), .pin (.e false)]

/-- The pin events of INIT (R170): RS low, the four raw nibbles, the four instruction bytes. -/
def initEvents : List Event :=
  [.pin (.rs false)] ++ nibbleEvents 0x3#4 ++ nibbleEvents 0x3#4 ++ nibbleEvents 0x3#4 ++ nibbleEvents 0x2#4 ++
  byteEvents false 0x28#8 ++ byteEvents false 0x0C#8 ++ byteEvents false 0x06#8 ++ byteEvents false 0x01#8

/-- The minimum time of a successful command from its first pin event to its completion (R258). -/
def minimumTime (c : Cfg) : Instr → Time
  | .init => 12 * (c.tSetup + c.tPw + c.tSettle) + c.tInitA + c.tInitB + c.tInitC + 4 * c.tExec + c.tClear
  | .clear => 2 * (c.tSetup + c.tPw + c.tSettle) + c.tClear
  | .setcur _ _ => 2 * (c.tSetup + c.tPw + c.tSettle) + c.tExec
  | .putc _ => 2 * (c.tSetup + c.tPw + c.tSettle) + c.tExec
  | .sendb isData value =>
    if isData = false ∧ (value = 0x01#8 ∨ value = 0x02#8 ∨ value = 0x03#8) then
      2 * (c.tSetup + c.tPw + c.tSettle) + c.tClear
    else 2 * (c.tSetup + c.tPw + c.tSettle) + c.tExec
  | .sendn _ => c.tSetup + c.tPw + c.tSettle

/-- The controller byte a command sends, with its register select; INIT and SENDN send no single byte. -/
def byteOf : Instr → Option (Bool × Byte)
  | .init => none
  | .clear => some (false, 0x01#8)
  | .setcur row column => some (false, setDdramByte row column)
  | .putc char => some (true, char)
  | .sendb isData value => some (isData, value)
  | .sendn _ => none

/-- The next edge accepts the presented word (R112). -/
structure State.Accepting (w : Word) (s : State) : Prop where
  rst : s.rst = false
  busy : s.busy = false
  valid : s.cmdValid = true
  word : s.cmdWord = w

/-- The host's power-on duty (R176, R244) at the next acceptance: it comes `T_POWERON` or more after the controller's
supply came up at `supplyUp`. -/
def State.PowerOnRespected (supplyUp : ℚ) (s : State) : Prop := powerOnMet s.cfg supplyUp s.latch.now = true

end Sys2Proof.Machine
end

