-- ==== Sys2Proof/Certificates/Slice0/Obligations.lean ====
section
/-! DEFINITION. The statements for the provers. "Waiting host" is `hostWait = .untilReady`, "polling host" is
`hostWait = .poll` (R227, log 4). -/

open Sys2Proof Sys2Proof.Machine

/-! ## Reset -/

/-- R241: after reset the engine is idle, uninitialized, with RESULT 0 and its pins low; it waits for a command. -/
def Obligations.ResetLeavesEngineIdleAndPinsLow : Prop :=
  State.reset.busy = false ∧ State.reset.initialized = false ∧ State.reset.done = false ∧
  State.reset.result.code = 0#3 ∧ State.reset.rs = false ∧ State.reset.rw = false ∧ State.reset.e = false ∧
  State.reset.d = 0b0000#4 ∧
  step { State.reset with rst := false, cmdValid := false } = .next { State.reset with rst := false, cmdValid := false }

/-- R240: an edge with `rst` = 1 puts every element of R35 at its reset value (CMDL, which R35 leaves unspecified, is not
mentioned), accepts nothing, and `cmd_ready` is 0 until `rst` falls. R242: a running command is aborted, no `Done` is
recorded. The model's own choices: the one new event is its reset mark (log 6), and the configuration in `platformCfg`
holds from here (log 2). -/
def Obligations.RstEdgeRestoresEveryElement : Prop :=
  ∀ s : State, s.rst = true →
    ∃ t, step s = .next t ∧
      t.rs = false ∧ t.rw = false ∧ t.e = false ∧ t.d = 0#4 ∧ t.busy = false ∧ t.initialized = false ∧ t.done = false ∧
      t.result = .ok ∧ t.exp = [] ∧ t.upc = 0 ∧ t.hold = 0 ∧ t.cfg = s.platformCfg ∧
      t.cmdReady = false ∧ State.cmdReady { t with rst := false } = true ∧
      t.rst = true ∧ t.cmdValid = s.cmdValid ∧ t.cmdWord = s.cmdWord ∧ t.stream = s.stream ∧
      t.platformCfg = s.platformCfg ∧ t.hostDelay = s.hostDelay ∧ t.hostWait = s.hostWait ∧
      eventsOf t.trace = eventsOf s.trace ++ [.reset s.platformCfg]

/-- The state after reset meets every invariant stated below (the trace and the clocks are the model's own, logs 5
and 6). -/
def Obligations.ResetMeetsTheInvariants : Prop :=
  State.reset.Legal ∧ State.reset.TraceAgrees ∧ pulseLevel State.reset.trace = some State.reset.e ∧
  State.reset.PulseContract

/-! ## Encoding -/

/-- Words of the decoder vectors (spec/95, 2.1) and what they decode to. -/
def Obligations.SpecWordsDecode : Prop :=
  decode 0x1000#16 = .ok .init ∧ decode 0x2000#16 = .ok .clear ∧ decode 0x3127#16 = .ok (.setcur 1#4 0x27#8) ∧
  decode 0x3F00#16 = .ok (.setcur 15#4 0#8) ∧ decode 0x4041#16 = .ok (.putc 0x41#8) ∧
  decode 0x5028#16 = .ok (.sendb false 0x28#8) ∧ decode 0x5141#16 = .ok (.sendb true 0x41#8) ∧
  decode 0x60F3#16 = .ok (.sendn 3#4) ∧ decode 0x0000#16 = .error .reservedOpcode ∧
  decode 0x1800#16 = .error .reservedBits ∧ decode 0x41FF#16 = .error .reservedBits ∧
  decode 0x5201#16 = .error .reservedBits ∧ decode 0x7000#16 = .error .reservedOpcode

/-- R102: a word is the named command iff `(word & mask) = match`, for each row; a word that matches no row is illegal. -/
def Obligations.WordIsCommandIffItMatchesItsRow : Prop :=
  ∀ w : Word,
    (decode w = .ok .init ↔ w &&& 0xFFFF#16 = 0x1000#16) ∧
    (decode w = .ok .clear ↔ w &&& 0xFFFF#16 = 0x2000#16) ∧
    ((∃ r c, decode w = .ok (.setcur r c)) ↔ w &&& 0xF000#16 = 0x3000#16) ∧
    ((∃ c, decode w = .ok (.putc c)) ↔ w &&& 0xFF00#16 = 0x4000#16) ∧
    ((∃ d v, decode w = .ok (.sendb d v)) ↔ w &&& 0xFE00#16 = 0x5000#16) ∧
    ((∃ n, decode w = .ok (.sendn n)) ↔ w &&& 0xFF00#16 = 0x6000#16) ∧
    (opcodeRows.filter (fun r => r.matches w)).length ≤ 1 ∧
    (opcodeRows.filter (fun r => r.matches w) = [] ↔ ∃ e, decode w = .error e)

/-- R104, R105, R108: which words are illegal, and why. -/
def Obligations.IllegalWordsAreReservedOpcodesAndReservedBits : Prop :=
  ∀ w : Word,
    (decode w = .error .reservedOpcode ↔ (w.toNat / 0x1000 = 0 ∨ 7 ≤ w.toNat / 0x1000)) ∧
    (decode w = .error .reservedBits ↔
      ((w.toNat / 0x1000 = 1 ∨ w.toNat / 0x1000 = 2) ∧ w.toNat % 0x1000 ≠ 0) ∨
      ((w.toNat / 0x1000 = 4 ∨ w.toNat / 0x1000 = 6) ∧ w.toNat / 0x100 % 0x10 ≠ 0) ∨
      (w.toNat / 0x1000 = 5 ∧ w.toNat / 0x200 % 0x8 ≠ 0))

/-- R103, R110: the word of each assembler line, as a number, decodes to the command with those operands; SENDN's bits
7:4 may hold anything (R106). -/
def Obligations.AssemblerWordsDecodeToTheirOperands : Prop :=
  ∀ (r n x : Nibble) (b : Byte) (d : Bool),
    decode (BitVec.ofNat 16 (0x3000 + r.toNat * 0x100 + b.toNat)) = .ok (.setcur r b) ∧
    decode (BitVec.ofNat 16 (0x4000 + b.toNat)) = .ok (.putc b) ∧
    decode (BitVec.ofNat 16 (0x5000 + (if d then 0x100 else 0) + b.toNat)) = .ok (.sendb d b) ∧
    decode (BitVec.ofNat 16 (0x6000 + x.toNat * 0x10 + n.toNat)) = .ok (.sendn n)

/-- Decoding the word of any command, with any operands, gives it back. -/
def Obligations.DecodeOfEncodeIsTheCommand : Prop := ∀ i : Instr, i.wellFormed = true → decode (encode i) = .ok i

/-- A word that decodes is the word of its command, but for SENDN's ignored bits 7:4 (R106). -/
def Obligations.EncodeOfDecodeIsTheWord : Prop :=
  ∀ (w : Word) (i : Instr), decode w = .ok i →
    encode i = if w &&& 0xF000#16 = 0x6000#16 then w &&& 0xFF0F#16 else w

/-- R110: the assembler refuses a line iff an operand is out of range (rows 2 to 15 pass). R111: PUTS is one PUTC per
byte in order, nothing for an empty string; SENDI and SENDD are SENDB. -/
def Obligations.AssemblerChecksRangesAndExpandsPseudoCommands : Prop :=
  (∀ (row column v n : Nat) (d : Bool) (text : List Nat),
    (assembleLine (.setcur row column) = none ↔ (15 < row ∨ 255 < column)) ∧
    (assembleLine (.putc v) = none ↔ 255 < v) ∧
    (assembleLine (.sendb v d) = none ↔ 255 < v) ∧
    (assembleLine (.sendn n) = none ↔ 15 < n) ∧
    (assembleLine (.puts text) = none ↔ ∃ c ∈ text, 255 < c) ∧
    ((∀ c ∈ text, c ≤ 255) → assembleLine (.puts text) = some (text.map (fun c => BitVec.ofNat 16 (0x4000 + c)))) ∧
    assembleLine (.sendi v) = assembleLine (.sendb v false) ∧ assembleLine (.sendd v) = assembleLine (.sendb v true)) ∧
  assembleLine .init = some [0x1000#16] ∧ assembleLine .clear = some [0x2000#16] ∧ assembleLine (.puts []) = some []

/-! ## Expansions -/

/-- The micro-routines are their pseudocode (R132, R133, R150). -/
def Obligations.MicroRoutinesAreTheirPseudocode : Prop :=
  (∀ cfg : Cfg, pulseEnable cfg = [.emit (.e true), .hold cfg.tPw, .emit (.e false), .hold cfg.tSettle]) ∧
  (∀ (cfg : Cfg) (n : Nat), sendNibble cfg n =
    [.emit (.d (BitVec.ofNat 4 (n % 16))), .hold cfg.tSetup, .emit (.e true), .hold cfg.tPw, .emit (.e false),
     .hold cfg.tSettle]) ∧
  (∀ (cfg : Cfg) (v : Byte) (isData : Bool), sendByte cfg v isData =
    .emit (.rs isData) :: (sendNibble cfg (v.toNat / 16) ++ sendNibble cfg (v.toNat % 16)))

/-- The commands' expansions are their pseudocode, holds included (R135, R155, R156, R170, R190, R193). -/
def Obligations.ExpansionsAreTheirPseudocode : Prop :=
  ∀ cfg : Cfg,
    bodyOf cfg .init =
      .emit (.rs false) ::
      (sendNibble cfg 0x3 ++ .hold cfg.tInitA :: (sendNibble cfg 0x3 ++ .hold cfg.tInitB ::
      (sendNibble cfg 0x3 ++ .hold cfg.tInitC :: (sendNibble cfg 0x2 ++ .hold cfg.tExec ::
      (sendByte cfg 0x28#8 false ++ .hold cfg.tExec :: (sendByte cfg 0x0C#8 false ++ .hold cfg.tExec ::
      (sendByte cfg 0x06#8 false ++ .hold cfg.tExec :: (sendByte cfg 0x01#8 false ++ .hold cfg.tClear ::
      [.setFlag .initialized true])))))))) ∧
    bodyOf cfg .clear = sendByte cfg 0x01#8 false ++ [.hold cfg.tClear] ∧
    (∀ r c, bodyOf cfg (.setcur r c) = sendByte cfg (setDdramByte r c) false ++ [.hold cfg.tExec]) ∧
    (∀ c, bodyOf cfg (.putc c) = sendByte cfg c true ++ [.hold cfg.tExec]) ∧
    (∀ d v, bodyOf cfg (.sendb d v) = sendByte cfg v d ++ [.hold (holdAfter cfg v d)]) ∧
    (∀ n : Nibble, bodyOf cfg (.sendn n) = sendNibble cfg n.toNat)

/-- R153 with R154's set: `T_CLEAR` after the instruction bytes 1, 2, 3, `T_EXEC` after every other byte. -/
def Obligations.HoldAfterByteIsLongForClearAndHome : Prop :=
  ∀ (cfg : Cfg) (v : Byte) (isData : Bool),
    (isData = false → v.toNat ∈ [1, 2, 3] → holdAfter cfg v isData = cfg.tClear) ∧
    (isData = true ∨ v.toNat ∉ [1, 2, 3] → holdAfter cfg v isData = cfg.tExec)

/-- R192: the instruction byte of a cursor position, by the source's formula. -/
def Obligations.SetcurByteIsTheDdramAddress : Prop :=
  ∀ c : Byte,
    (setDdramByte 0#4 c).toNat = 0x80 + c.toNat % 0x80 ∧ (setDdramByte 1#4 c).toNat = 0x80 + (0x40 + c.toNat) % 0x80

/-- R199: CLEAR sends only 0x01, SETCUR only bytes 0x80 to 0xFF, PUTC only character bytes; none of them changes the
controller's mode (R179). -/
def Obligations.SessionCommandsSendNoModeChange : Prop :=
  (∀ cfg : Cfg, (bodyOf cfg .clear).filterMap emitted = byteEvents false 0x01#8) ∧
  (∀ (cfg : Cfg) (r : Nibble) (c : Byte),
    ∃ b : Byte, 0x80 ≤ b.toNat ∧ (bodyOf cfg (.setcur r c)).filterMap emitted = byteEvents false b) ∧
  (∀ (cfg : Cfg) (c : Byte), (bodyOf cfg (.putc c)).filterMap emitted = byteEvents true c) ∧
  (∀ (ctrl : CtrlNextAc) (v : View) (b : Byte),
    (View.execute ctrl true b v).mode = v.mode ∧ (b = 0x01#8 ∨ 0x80 ≤ b.toNat → (View.execute ctrl false b v).mode = v.mode))

/-- R41: `ceil(t / TICK_NS)` ticks are the fewest that last a hold of `t` ns. -/
def Obligations.HoldTicksAreTheFewestThatLastTheHold : Prop :=
  ∀ (cfg : Cfg) (t : Time), cfg.wellFormed = true →
    t ≤ (cfg.holdTicks t : Time) * cfg.tickNs ∧ ∀ n : Nat, t ≤ (n : Time) * cfg.tickNs → cfg.holdTicks t ≤ n

/-! ## What each command does -/

/-- INIT completes whether or not the engine is initialized (R177), with R170's 41 pin events in §4.3's order (R175),
the pins as its last byte leaves them, INITIALIZED set, and nothing else touched. -/
def Obligations.InitCompletes : Prop :=
  ∀ s : State, s.hostWait = .untilReady → s.cfgOk = true →
    ∃ t, exec .init s = .next t ∧ Completed .ok t ∧ t.initialized = true ∧
      t.rs = false ∧ t.e = false ∧ t.d = 0x1#4 ∧ Untouched s t ∧
      eventsOf t.trace = eventsOf s.trace ++ initEvents ++ [.done .ok] ∧ initEvents.length = 41

/-- CLEAR completes on an initialized engine: byte 0x01 with RS = 0 (R190). -/
def Obligations.ClearCompletes : Prop :=
  ∀ s : State, s.hostWait = .untilReady → s.cfgOk = true → s.initialized = true →
    ∃ t, exec .clear s = .next t ∧ Completed .ok t ∧ t.initialized = true ∧
      t.rs = false ∧ t.e = false ∧ t.d = 0x1#4 ∧ Untouched s t ∧
      eventsOf t.trace = eventsOf s.trace ++ byteEvents false 0x01#8 ++ [.done .ok]

/-- SETCUR with row 0 or 1 completes on an initialized engine: the byte of R192 with RS = 0 (R193), any column
(R195). -/
def Obligations.SetcurCompletes : Prop :=
  ∀ (s : State) (row : Nibble) (column : Byte), s.hostWait = .untilReady → s.cfgOk = true → s.initialized = true →
    row = 0#4 ∨ row = 1#4 →
    ∃ t b, exec (.setcur row column) s = .next t ∧ b.toNat = 0x80 + (row.toNat * 0x40 + column.toNat) % 0x80 ∧
      Completed .ok t ∧ t.initialized = true ∧
      t.rs = false ∧ t.e = false ∧ t.d = BitVec.ofNat 4 (b.toNat % 16) ∧ Untouched s t ∧
      eventsOf t.trace = eventsOf s.trace ++ byteEvents false b ++ [.done .ok]

/-- PUTC completes on an initialized engine: its byte, unchanged, with RS = 1 (R156). -/
def Obligations.PutcCompletes : Prop :=
  ∀ (s : State) (char : Byte), s.hostWait = .untilReady → s.cfgOk = true → s.initialized = true →
    ∃ t, exec (.putc char) s = .next t ∧ Completed .ok t ∧ t.initialized = true ∧
      t.rs = true ∧ t.e = false ∧ t.d = BitVec.ofNat 4 (char.toNat % 16) ∧ Untouched s t ∧
      eventsOf t.trace = eventsOf s.trace ++ byteEvents true char ++ [.done .ok]

/-- SENDB completes on an initialized engine: its byte with RS = `isData` (R155). -/
def Obligations.SendbCompletes : Prop :=
  ∀ (s : State) (isData : Bool) (value : Byte), s.hostWait = .untilReady → s.cfgOk = true → s.initialized = true →
    ∃ t, exec (.sendb isData value) s = .next t ∧ Completed .ok t ∧ t.initialized = true ∧
      t.rs = isData ∧ t.e = false ∧ t.d = BitVec.ofNat 4 (value.toNat % 16) ∧ Untouched s t ∧
      eventsOf t.trace = eventsOf s.trace ++ byteEvents isData value ++ [.done .ok]

/-- SENDN completes, initialized or not: one raw nibble; RS and INITIALIZED keep their values (R135). -/
def Obligations.SendnCompletes : Prop :=
  ∀ (s : State) (nibble : Nibble), s.hostWait = .untilReady → s.cfgOk = true →
    ∃ t, exec (.sendn nibble) s = .next t ∧ Completed .ok t ∧ t.initialized = s.initialized ∧
      t.rs = s.rs ∧ t.e = false ∧ t.d = nibble ∧ Untouched s t ∧
      eventsOf t.trace = eventsOf s.trace ++ nibbleEvents nibble ++ [.done .ok]

/-- R258: the minimum time of every successful command from its first pin event to its completion, which is the time
where no gap is stretched (`SLACK` = 0). -/
def Obligations.CommandsTakeTheirMinimumTime : Prop :=
  ∀ (s : State) (i : Instr), s.hostWait = .untilReady → checkOf s i = .ok →
    ∃ t p first, exec i s = .next t ∧ t.trace[s.trace.length]? = some (first, .pin p) ∧
      t.trace.getLast? = some (t.now, .done .ok) ∧
      first + minimumTime s.cfg i ≤ t.now ∧ (s.cfg.slack = some 0 → t.now = first + minimumTime s.cfg i)

/-- Under a polling host a command that passes its checks is accepted and loaded (R38, R112): BUSY 1, DONE 0, EXP its
expansion, UPC 0, INITIALIZED 0 for INIT alone (R171), no pin event yet. -/
def Obligations.PollingAcceptanceLoadsTheExpansion : Prop :=
  ∀ (s : State) (i : Instr), s.hostWait = .poll → checkOf s i = .ok →
    exec i s = .next
      { s with busy := true, done := false, exp := bodyOf s.cfg i ++ [.complete .ok], upc := 0,
               initialized := if i = .init then false else s.initialized }

/-! ## Error results -/

/-- R42: `CFG_OK` = 1 iff every bit of `PINS_BOUND` is 1; when it is 0 every command completes with CONFIG_ERROR, the
engine emits no pin event and the configuration stays. -/
def Obligations.UnboundPinsGiveConfigError : Prop :=
  (∀ s : State, s.cfgOk = true ↔ ∀ k, k < 6 → s.cfg.pinsBound.getLsbD k = true) ∧
  ∀ (s : State) (w : Word), s.Accepting w → s.hostWait = .untilReady → s.cfgOk = false →
    ∃ t, step s = .next t ∧ Completed .configError t ∧ SamePins s t ∧ t.initialized = s.initialized ∧ t.cfg = s.cfg ∧
      eventsOf t.trace = eventsOf s.trace ++ [.accept w, .done .configError]

/-- R104, R105: a word with a reserved opcode (the all-zero word among them), or with a reserved-zero bit set, completes
with ILLEGAL_COMMAND, with no pin event and no hold. The time of the acceptance is the model's choice: one clock period
after the last event even right after reset (log 5), and `hostDelay` more (log 3); the gap before `Done` is free (log 7). -/
def Obligations.IllegalWordsGiveIllegalCommand : Prop :=
  ∀ (s : State) (w : Word), s.Accepting w → s.hostWait = .untilReady → s.cfgOk = true → s.hold = 0 →
    (w.toNat / 0x1000 = 0 ∨ 7 ≤ w.toNat / 0x1000 ∨
      ((w.toNat / 0x1000 = 1 ∨ w.toNat / 0x1000 = 2) ∧ w.toNat % 0x1000 ≠ 0) ∨
      ((w.toNat / 0x1000 = 4 ∨ w.toNat / 0x1000 = 6) ∧ w.toNat / 0x100 % 0x10 ≠ 0) ∨
      (w.toNat / 0x1000 = 5 ∧ w.toNat / 0x200 % 0x8 ≠ 0)) →
    ∃ t, step s = .next t ∧ Completed .illegalCommand t ∧ SamePins s t ∧ t.initialized = s.initialized ∧ t.cfg = s.cfg ∧
      eventsOf t.trace = eventsOf s.trace ++ [.accept w, .done .illegalCommand] ∧
      t.now = s.now + (s.cfg.tickNs + s.hostDelay) + s.cfg.gap s.freeCount

/-- R194: SETCUR with a row other than 0 and 1 completes with INVALID_ARGUMENT, initialized or not, with no pin event and
no hold. -/
def Obligations.SetcurRowOutOfRangeGivesInvalidArgument : Prop :=
  ∀ (s : State) (row : Nibble) (column : Byte), s.hostWait = .untilReady → s.cfgOk = true → s.hold = 0 →
    row ≠ 0#4 → row ≠ 1#4 →
    ∃ t, exec (.setcur row column) s = .next t ∧ Completed .invalidArgument t ∧ SamePins s t ∧
      t.initialized = s.initialized ∧ Untouched s t ∧
      eventsOf t.trace = eventsOf s.trace ++ [.done .invalidArgument] ∧ t.now = s.now + s.cfg.gap s.freeCount

/-- R253: CLEAR, SETCUR, PUTC and SENDB before INIT completes are refused with NOT_INITIALIZED and emit nothing. -/
def Obligations.CommandsBeforeInitGiveNotInitialized : Prop :=
  ∀ (s : State) (i : Instr), s.hostWait = .untilReady → s.cfgOk = true → s.initialized = false →
    (i = .clear ∨ (∃ c, i = .setcur 0#4 c) ∨ (∃ c, i = .setcur 1#4 c) ∨ (∃ c, i = .putc c) ∨ (∃ d v, i = .sendb d v)) →
    ∃ t, exec i s = .next t ∧ Completed .notInitialized t ∧ SamePins s t ∧ t.initialized = false ∧ Untouched s t ∧
      eventsOf t.trace = eventsOf s.trace ++ [.done .notInitialized]

/-- R212: the result of every accepted word is that of the checks in their order, on the word, INITIALIZED and
`CFG_OK` at acceptance. -/
def Obligations.AcceptedWordCompletesWithItsCheck : Prop :=
  ∀ (s : State) (w : Word), s.Accepting w → s.hostWait = .untilReady →
    ∃ t, step s = .next t ∧ t.done = true ∧ t.busy = false ∧ t.result = checkWord w s.initialized s.cfgOk

/-- R214: an error result is precise: no pin event, no hold, no pin level or INITIALIZED changed. The time of the
acceptance is the model's choice: one clock period after the last event even right after reset (log 5), and `hostDelay`
more (log 3); the gap before `Done` is free (log 7). -/
def Obligations.ErrorResultTouchesNothing : Prop :=
  ∀ (s : State) (w : Word), s.Accepting w → s.hostWait = .untilReady → s.hold = 0 →
    checkWord w s.initialized s.cfgOk ≠ .ok →
    ∃ t, step s = .next t ∧ Completed (checkWord w s.initialized s.cfgOk) t ∧ SamePins s t ∧
      t.initialized = s.initialized ∧
      eventsOf t.trace = eventsOf s.trace ++ [.accept w, .done (checkWord w s.initialized s.cfgOk)] ∧
      t.now = s.now + (s.cfg.tickNs + s.hostDelay) + s.cfg.gap s.freeCount

/-! ## Steps -/

/-- A step of an idle engine with a word on the port that decodes runs that command (R112): the latch writes CMDL, marks
the trace and lets the host move on, and exec does the rest. The model's own choices: the time of the acceptance (log 5),
`hostDelay` and the host's next word from `stream` (log 3), and that `withFetchWord` presents the given word (log 8). -/
def Obligations.StepRunsTheDecodedCommand : Prop :=
  (∀ (s : State) (w : Word) (i : Instr), s.Accepting w → decode w = .ok i →
    step s = exec i s.latch ∧ s.latch.cmdl = w ∧
    s.latch.trace = s.trace ++ [(s.now + (s.cfg.tickNs + s.hostDelay), .accept w)] ∧
    s.latch.now = s.now + (s.cfg.tickNs + s.hostDelay) ∧ SamePins s s.latch ∧
    s.latch.initialized = s.initialized ∧ s.latch.result = s.result ∧ s.latch.cfg = s.cfg ∧
    s.latch.hostWait = s.hostWait ∧ s.latch.stream = s.stream.tail) ∧
  (∀ (s : State) (i : Instr),
    step (s.withFetchWord 16 (encode i).toNat) = exec i (s.withFetchWord 16 (encode i).toNat).latch)

/-- R227: a host that presents no command leaves the engine idle. -/
def Obligations.IdleEngineWaits : Prop :=
  ∀ s : State, s.rst = false → s.busy = false → s.cmdValid = false → step s = .next s

/-- R38: while a hold is pending the engine performs nothing; time passes. -/
def Obligations.PendingHoldsElapseFirst : Prop :=
  ∀ s : State, s.rst = false → s.busy = true → s.hostWait = .poll → s.hold ≠ 0 →
    step s = .next { s with now := s.now + s.hold, hold := 0 }

/-- R130: `Emit(p, v)` sets its pin and appends its event, even where the level does not change; R38: UPC moves on by
one; R131, R259: the gap is at least the holds, at most `SLACK` more. -/
def Obligations.EmitSetsItsPinAndAppendsItsEvent : Prop :=
  ∀ (s : State) (p : PinWrite), s.rst = false → s.busy = true → s.hostWait = .poll → s.hold = 0 →
    s.exp[s.upc]? = some (.emit p) →
    ∃ t, step s = .next t ∧
      t.rs = (match p with | .rs v => v | .e _ => s.rs | .d _ => s.rs) ∧
      t.e = (match p with | .rs _ => s.e | .e v => v | .d _ => s.e) ∧
      t.d = (match p with | .rs _ => s.d | .e _ => s.d | .d v => v) ∧
      t.rw = false ∧ t.trace = s.trace ++ [(t.now, .pin p)] ∧ t.upc = s.upc + 1 ∧ t.exp = s.exp ∧ t.hold = 0 ∧
      t.busy = true ∧ t.done = s.done ∧ t.result = s.result ∧ t.initialized = s.initialized ∧ Untouched s t ∧
      s.now ≤ t.now ∧ (∀ b, s.cfg.slack = some b → t.now ≤ s.now + b)

/-- R41: `Hold(t)` adds `t` ns to the hold timer; it changes no pin and no flag (R131). `SetFlag` writes INITIALIZED with
no pin activity (R14). -/
def Obligations.HoldAndSetFlagTouchNoPin : Prop :=
  ∀ s : State, s.rst = false → s.busy = true → s.hostWait = .poll → s.hold = 0 →
    (∀ h, s.exp[s.upc]? = some (.hold h) → step s = .next { s with hold := h, upc := s.upc + 1 }) ∧
    (∀ b, s.exp[s.upc]? = some (.setFlag .initialized b) → step s = .next { s with initialized := b, upc := s.upc + 1 })

/-- R213: `Complete(r)` performs `RESULT <- r`, `DONE <- 1`, `BUSY <- 0` and appends `Done(r)`; nothing else changes but
the emptied sequencer (C7), and with `rst` = 0 a new command can be accepted at the next edge. -/
def Obligations.CompleteReportsAndFrees : Prop :=
  ∀ (s : State) (r : ResultCode), s.rst = false → s.busy = true → s.hostWait = .poll → s.hold = 0 →
    s.exp[s.upc]? = some (.complete r) →
    ∃ t, step s = .next t ∧ Completed r t ∧ SamePins s t ∧ t.initialized = s.initialized ∧ Untouched s t ∧
      t.cmdReady = true ∧ t.trace = s.trace ++ [(t.now, .done r)] ∧ s.now ≤ t.now

/-- R113: while the engine is busy a presented command is neither accepted nor lost. -/
def Obligations.BusyEngineHoldsOffCommands : Prop :=
  ∀ s t : State, s.rst = false → s.busy = true → step s = .next t →
    s.cmdReady = false ∧ t.cmdValid = s.cmdValid ∧ t.cmdWord = s.cmdWord ∧ t.stream = s.stream ∧ t.cmdl = s.cmdl ∧
    ∃ evs, t.trace = s.trace ++ evs ∧ ∀ ev ∈ evs, ∀ w, ev.2 ≠ .accept w

/-- R35: no rule reads CMDL while BUSY = 0: an idle engine's step does not depend on it. That a reset edge leaves equal
states is the model's choice: it writes 0x0000 to CMDL (log 1), where R35 leaves CMDL unspecified. -/
def Obligations.CmdlIsNotReadWhileIdle : Prop :=
  ∀ (s t : State) (w : Word), s.busy = false → step s = .next t →
    ∃ t', step { s with cmdl := w } = .next t' ∧ { t' with cmdl := t.cmdl } = t ∧
      (s.rst = true ∨ s.cmdValid = true → t' = t)

/-- R36: the layout of STATUS. -/
def Obligations.StatusLayout : Prop :=
  ∀ s : State,
    s.status.getLsbD 0 = s.busy ∧ s.status.getLsbD 1 = s.initialized ∧ s.status.getLsbD 2 = s.done ∧
    s.status.extractLsb' 3 3 = s.result.code ∧ s.status.getLsbD 6 = decide (s.cfg.pinsBound = 0b111111#6) ∧
    s.status.getLsbD 7 = false ∧ s.result.code.toNat ≤ 4

/-! ## Whole-machine rules -/

/-- R39: INITIALIZED is written only by INIT and by reset. -/
def Obligations.InitializedIsWrittenOnlyByInitAndReset : Prop :=
  ∀ s t : State, s.Legal → step s = .next t → t.initialized ≠ s.initialized →
    s.rst = true ∨ (s.busy = false ∧ decode s.cmdWord = .ok .init) ∨ (s.busy = true ∧ decode s.cmdl = .ok .init)

/-- R40: DONE falls on acceptance and rises on completion; RESULT is written at completion and only then. -/
def Obligations.ResultIsWrittenOnlyAtCompletion : Prop :=
  ∀ s t : State, s.rst = false → step s = .next t →
    ∃ evs, t.trace = s.trace ++ evs ∧
      (t.result ≠ s.result → ∃ at?, (at?, .done t.result) ∈ evs) ∧
      ((∃ at? r, (at?, .done r) ∈ evs) → t.done = true ∧ (t.now, .done t.result) ∈ evs) ∧
      ((∃ at? w, (at?, .accept w) ∈ evs) → (∀ at? r, (at?, .done r) ∉ evs) → t.done = false) ∧
      (evs = [] → t.done = s.done ∧ t.result = s.result)

/-- R9: the configuration is fixed from reset to reset. That a reset edge puts `platformCfg` in force is the model's
choice (log 2). -/
def Obligations.ConfigurationIsFixedBetweenResets : Prop :=
  ∀ s t : State, step s = .next t → t.cfg = if s.rst then s.platformCfg else s.cfg

/-! ## Invariants -/

/-- Every step keeps the sequencer legal: empty when idle with E low, the rest of a running command fitting the pins,
INITIALIZED = 0 while INIT runs, EXP the expansion of CMDL (R38, R134, R171, R222, C7). -/
def Obligations.StepKeepsTheSequencerLegal : Prop :=
  ∀ s t : State, s.Legal → step s = .next t → t.Legal

/-- Every step keeps the trace in agreement with the machine: times in order, pin levels, configuration (R16). -/
def Obligations.StepKeepsTheTraceInAgreement : Prop :=
  ∀ s t : State, s.TraceAgrees → step s = .next t → t.TraceAgrees

/-- R16: after every step the level of each pin is the value of the last event that wrote it with a timestamp up to now,
or its reset value where there is none (a reset edge counts as such an event, log 6); and a step changes no level of the
past. -/
def Obligations.PinLevelsAreThoseOfTheTrace : Prop :=
  ∀ s t : State, s.TraceAgrees → step s = .next t →
    t.rs = lastWritten rsWritten false t.trace t.now ∧ t.e = lastWritten eWritten false t.trace t.now ∧
    t.d = lastWritten dWritten 0#4 t.trace t.now ∧
    ∀ x, x < s.now → levelsAt t.trace x = levelsAt s.trace x

/-- R134: the E events of the trace alternate 1, 0, 1, 0, starting with 1, and E is low whenever the engine is idle. -/
def Obligations.EnablePulsesAlternate : Prop :=
  ∀ s t : State, s.Legal → pulseLevel s.trace = some s.e → step s = .next t →
    pulseLevel t.trace = some t.e ∧ (t.busy = false → t.e = false)

/-- R246, R247: every step keeps the pulse contract of the configuration: setup, pulse width and settle times, RS and D
stable around every pulse. -/
def Obligations.StepKeepsThePulseContract : Prop :=
  ∀ s t : State, s.Legal → s.PulseContract → step s = .next t → t.PulseContract

/-- From a legal state no step faults or refuses. -/
def Obligations.LegalStatesAlwaysStep : Prop := ∀ s : State, s.Legal → ∃ t, step s = .next t

/-- R227, R255: an accepted command runs to completion unless reset intervenes: with `rst` = 0 a busy engine is idle again
within twice as many steps as it has primitives left (what one step is, is the model's choice, log 4). -/
def Obligations.BusyEngineCompletes : Prop :=
  ∀ s : State, s.Legal → s.busy = true → s.rst = false →
    ∃ n t, n ≤ 2 * (s.exp.length - s.upc) ∧ Host.Core.run Sys2Proof.core n s = .next t ∧ t.busy = false ∧ t.done = true ∧
      Untouched s t

/-- The two ways to wait agree (R227, log 4): a polling host sees the engine reach, step by step, the very state that a
waiting host finds at the end of its one step. -/
def Obligations.PollingReachesTheSameState : Prop :=
  ∀ (s : State) (w : Word), s.Accepting w → s.hostWait = .poll →
    ∃ n t, step { s with hostWait := .untilReady } = .next t ∧
      Host.Core.run Sys2Proof.core n s = .next { t with hostWait := .poll }

/-- R196, R197: a stream of PUTCs, at least one, emits only the PUTCs' own events, every byte with RS = 1 and no
instruction byte. That the host's words come from `stream` is the model's choice (log 3). -/
def Obligations.CharacterStreamHasNoInstructionByte : Prop :=
  ∀ (cs : List Byte) (s : State), s.rst = false → s.busy = false → s.hostWait = .untilReady → s.cfgOk = true →
    s.initialized = true → s.cmdValid = true →
    s.cmdWord :: s.stream.map Request.word = cs.map (fun c => encode (.putc c)) →
    ∃ t, Host.Core.run Sys2Proof.core cs.length s = .next t ∧ Completed .ok t ∧ t.initialized = true ∧
      eventsOf t.trace = eventsOf s.trace ++
        cs.flatMap (fun c => .accept (encode (.putc c)) :: (byteEvents true c ++ [.done .ok]))

/-! ## The reference observer -/

/-- R84: what an instruction byte does to the observer. -/
def Obligations.InstructionBytesAct : Prop :=
  ∀ v : View,
    (∀ a, a < 128 → (v.instruction 0x01#8).ddram.read a = some 0x20#8) ∧ (v.instruction 0x01#8).ac = some 0#7 ∧
    (∀ a : DdramAddr, v.instruction (1#1 ++ a) = { v with ac := some a }) ∧
    v.instruction 0x28#8 = { v with mode := { v.mode with function := some 0x28#8 } } ∧
    v.instruction 0x0C#8 = { v with mode := { v.mode with display := some 0x0C#8 } } ∧
    v.instruction 0x06#8 = { v with mode := { v.mode with entry := some 0x06#8 } } ∧
    (∀ b : Byte, b.toNat < 0x80 → b ≠ 0x01#8 → b ≠ 0x28#8 → b ≠ 0x0C#8 → b ≠ 0x06#8 → v.instruction b = View.unknown)

/-- R85: what a character byte does to the observer. The model's own choices: a cell outside 0x00-0x27 and 0x40-0x67 is
known like any other (log 18), and under an entry mode other than 0x06 the next address is UNKNOWN (log 11). -/
def Obligations.CharacterBytesAct : Prop :=
  ∀ (ctrl : CtrlNextAc) (v : View) (b : Byte),
    (∀ a : DdramAddr, v.ac = some a →
      (v.character ctrl b).ddram.read a.toNat = some b ∧
      (∀ k, k ≠ a.toNat → (v.character ctrl b).ddram.read k = v.ddram.read k) ∧
      (v.mode.entry = some 0x06#8 → a.toNat ≤ 0x26 ∨ (0x40 ≤ a.toNat ∧ a.toNat ≤ 0x66) →
        (v.character ctrl b).ac = some (BitVec.ofNat 7 (a.toNat + 1))) ∧
      (v.mode.entry = some 0x06#8 → ¬ (a.toNat ≤ 0x26 ∨ (0x40 ≤ a.toNat ∧ a.toNat ≤ 0x66)) →
        (v.character ctrl b).ac = ctrl.map (fun f => f a)) ∧
      (v.mode.entry ≠ some 0x06#8 → (v.character ctrl b).ac = none)) ∧
    (v.ac = none → (∀ k, (v.character ctrl b).ddram.read k = none) ∧ (v.character ctrl b).ac = none)

/-- The observer's DDRAM keeps its canonical form on every trace. -/
def Obligations.ObservedDdramStaysCanonical : Prop :=
  ∀ (ctl : Controller) (cfg : Cfg) (tr : Trace), (observe ctl cfg tr).ddram.wf = true

/-- R179: after INIT under a conforming configuration, accepted no earlier than the power-on wait allows (R244), the
controller is in the fixed mode, DDRAM is blank and the cursor is at 0x00, whatever it was before. -/
def Obligations.InitPutsTheControllerInTheFixedMode : Prop :=
  ∀ (s : State) (ctl : Controller), s.TraceAgrees → s.Accepting 0x1000#16 → s.hostWait = .untilReady → s.cfgOk = true →
    s.cfg.conforming = true → s.PowerOnRespected ctl.supplyUp →
    ∃ t, step s = .next t ∧ (t.controller ctl).sync = some .fourBit ∧ (t.controller ctl).phase = some .hi ∧
      (t.controller ctl).mode = ⟨some 0x28#8, some 0x0C#8, some 0x06#8⟩ ∧ (t.controller ctl).ac = some 0#7 ∧
      ∀ a, a < 128 → (t.controller ctl).ddram.read a = some 0x20#8

/-- CLEAR, SETCUR, PUTC and SENDB send a synchronised controller two nibbles and leave the nibble phase as they found it
(R47, R83). In phase HI exactly their byte is executed. In phase LO (R252) their high nibble completes the half byte before
it and their low nibble becomes the next half byte, unless RS differs or the misframed byte loses the reading. -/
def Obligations.ByteCommandsReachTheController : Prop :=
  ∀ (s : State) (ctl : Controller) (w : Word) (i : Instr) (isData : Bool) (b : Byte), s.TraceAgrees → s.Accepting w →
    s.hostWait = .untilReady → decode w = .ok i → byteOf i = some (isData, b) → checkOf s i = .ok →
    (s.controller ctl).sync = some .fourBit →
    ((s.controller ctl).phase = some .hi →
      ∃ t, step s = .next t ∧ t.controller ctl = View.execute ctl.nextAc isData b
        { s.controller ctl with hi := some (b.extractLsb' 4 4), rsHi := some isData, phase := some .hi }) ∧
    (∀ h, (s.controller ctl).phase = some .lo → (s.controller ctl).hi = some h →
      (s.controller ctl).rsHi = some isData →
      ∃ t v, step s = .next t ∧
        v = View.execute ctl.nextAc isData (h ++ b.extractLsb' 4 4) { s.controller ctl with phase := some .hi } ∧
        (v.sync = some .fourBit →
          t.controller ctl = { v with hi := some (b.extractLsb' 0 4), rsHi := some isData, phase := some .lo }) ∧
        (v.sync ≠ some .fourBit → t.controller ctl = View.unknown)) ∧
    (∀ h, (s.controller ctl).phase = some .lo → (s.controller ctl).hi = some h →
      (s.controller ctl).rsHi = some (!isData) →
      ∃ t, step s = .next t ∧ t.controller ctl = View.unknown)

/-- R252: a SENDN flips the phase of a synchronised controller; the second one of a pair completes a byte. -/
def Obligations.SendnFlipsTheNibblePhase : Prop :=
  ∀ (s : State) (ctl : Controller) (n : Nibble), s.TraceAgrees → s.Accepting (encode (.sendn n)) →
    s.hostWait = .untilReady → s.cfgOk = true → (s.controller ctl).sync = some .fourBit →
    ((s.controller ctl).phase = some .hi →
      ∃ t, step s = .next t ∧ t.controller ctl =
        { s.controller ctl with phase := some .lo, hi := some n, rsHi := some s.rs }) ∧
    (∀ h, (s.controller ctl).phase = some .lo → (s.controller ctl).hi = some h →
      (s.controller ctl).rsHi = some s.rs →
      ∃ t, step s = .next t ∧ t.controller ctl =
        View.execute ctl.nextAc s.rs (h ++ n) { s.controller ctl with phase := some .hi })

/-- R191: two CLEARs in a row leave the controller as one does; the second emits its own 7 events. That the second comes
from `stream` is the model's choice (log 3). -/
def Obligations.TwoClearsLeaveTheControllerAsOne : Prop :=
  ∀ (s : State) (ctl : Controller) (delay : Time), s.TraceAgrees → s.Accepting 0x2000#16 →
    s.stream = [⟨delay, 0x2000#16⟩] → s.hostWait = .untilReady → s.cfgOk = true → s.initialized = true →
    (s.controller ctl).sync = some .fourBit → (s.controller ctl).phase = some .hi →
    ∃ t u, step s = .next t ∧ step t = .next u ∧ u.controller ctl = t.controller ctl ∧
      (t.controller ctl).ac = some 0#7 ∧ (∀ a, a < 128 → (t.controller ctl).ddram.read a = some 0x20#8) ∧
      eventsOf u.trace = eventsOf t.trace ++ .accept 0x2000#16 :: (byteEvents false 0x01#8 ++ [.done .ok])

/-- After a reset edge nothing is known of the controller (R86, R242; that an edge of an idle engine counts too is the
model's reading, log 10), and a non-conforming configuration never gives a reading (D28). -/
def Obligations.ResetAndNonConformanceLoseTheReading : Prop :=
  (∀ (s t : State) (ctl : Controller), s.rst = true → step s = .next t → t.controller ctl = View.unknown) ∧
  (∀ (s : State) (ctl : Controller), s.TraceAgrees → s.cfg.conforming = false → s.controller ctl = View.unknown)

/-- R245: an INIT accepted before `T_POWERON` has passed since the controller's supply came up completes OK all the same,
and the controller is in an unknown state. The model's own reading (log 20): when the supply came up is a parameter of the
observer, once; the unknown state makes the whole reading UNKNOWN; and an UNKNOWN reading stays so until the next INIT. -/
def Obligations.TooEarlyInitLeavesTheControllerUnknown : Prop :=
  ∀ (s : State) (ctl : Controller), s.hostWait = .untilReady →
    (s.TraceAgrees → s.Accepting 0x1000#16 → s.cfgOk = true → ¬ s.PowerOnRespected ctl.supplyUp →
      ∃ t, step s = .next t ∧ Completed .ok t ∧ t.initialized = true ∧ t.controller ctl = View.unknown) ∧
    (∀ w, s.Accepting w → decode w ≠ .ok .init → s.controller ctl = View.unknown →
      ∃ t, step s = .next t ∧ t.controller ctl = View.unknown)
end

