-- ==== Sys2Proof/Laws/Decode.lean ====
section
/-! SUPPORT. The command word as its three fields (R100), and each row of R102 read as a condition on the fields. -/

namespace Sys2Proof

/-- A word is its three fields side by side (R100). -/
theorem word_fields (w : Word) : opField w ++ aField w ++ bField w = w := by
  simp only [opField, aField, bField]
  ext i hi
  simp
  grind

theorem append_inj {m n : Nat} {a a' : BitVec m} {b b' : BitVec n} : a ++ b = a' ++ b' ↔ a = a' ∧ b = b' := by
  constructor
  · intro h
    constructor
    · apply BitVec.eq_of_getLsbD_eq
      intro i hi
      have := congrArg (fun x => x.getLsbD (n + i)) h
      simpa [BitVec.getLsbD_append] using this
    · apply BitVec.eq_of_getLsbD_eq
      intro i hi
      have := congrArg (fun x => x.getLsbD i) h
      simpa [BitVec.getLsbD_append, hi] using this
  · rintro ⟨rfl, rfl⟩
    rfl

@[simp] theorem opField_append (o a : Nibble) (b : Byte) : opField (o ++ a ++ b) = o :=
  (append_inj.mp (append_inj.mp (word_fields (o ++ a ++ b))).1).1

@[simp] theorem aField_append (o a : Nibble) (b : Byte) : aField (o ++ a ++ b) = a :=
  (append_inj.mp (append_inj.mp (word_fields (o ++ a ++ b))).1).2

@[simp] theorem bField_append (o a : Nibble) (b : Byte) : bField (o ++ a ++ b) = b :=
  (append_inj.mp (word_fields (o ++ a ++ b))).2

/-- Masking is field by field. -/
theorem and_fields (o a mo ma : Nibble) (b mb : Byte) :
    (o ++ a ++ b) &&& (mo ++ ma ++ mb) = (o &&& mo) ++ (a &&& ma) ++ (b &&& mb) := by
  rw [BitVec.and_append, BitVec.and_append]

/-- A row matches a word iff it matches each field. -/
theorem OpcodeRow.matches_iff (r : OpcodeRow) (w : Word) :
    r.matches w = true ↔
      opField w &&& opField r.mask = opField r.pattern ∧ aField w &&& aField r.mask = aField r.pattern ∧
      bField w &&& bField r.mask = bField r.pattern := by
  rw [OpcodeRow.matches, beq_iff_eq]
  conv_lhs => rw [← word_fields w, ← word_fields r.mask, ← word_fields r.pattern]
  rw [and_fields, append_inj, append_inj, and_assoc]

@[simp] theorem nibble_and_ones (x : Nibble) : x &&& 0xF#4 = x := by revert x; decide
@[simp] theorem byte_and_ones (x : Byte) : x &&& 0xFF#8 = x := by
  have : (0xFF#8 : Byte) = BitVec.allOnes 8 := rfl
  rw [this, BitVec.and_allOnes]

theorem rowInit_matches (w : Word) :
    rowInit.matches w = true ↔ opField w = 1#4 ∧ aField w = 0#4 ∧ bField w = 0#8 := by
  rw [OpcodeRow.matches_iff, show opField rowInit.mask = 0xF#4 from rfl, show aField rowInit.mask = 0xF#4 from rfl,
    show bField rowInit.mask = 0xFF#8 from rfl, nibble_and_ones, nibble_and_ones, byte_and_ones]
  exact Iff.rfl

theorem rowClear_matches (w : Word) :
    rowClear.matches w = true ↔ opField w = 2#4 ∧ aField w = 0#4 ∧ bField w = 0#8 := by
  rw [OpcodeRow.matches_iff, show opField rowClear.mask = 0xF#4 from rfl, show aField rowClear.mask = 0xF#4 from rfl,
    show bField rowClear.mask = 0xFF#8 from rfl, nibble_and_ones, nibble_and_ones, byte_and_ones]
  exact Iff.rfl

theorem rowSetcur_matches (w : Word) : rowSetcur.matches w = true ↔ opField w = 3#4 := by
  rw [OpcodeRow.matches_iff, show opField rowSetcur.mask = 0xF#4 from rfl, show aField rowSetcur.mask = 0#4 from rfl,
    show bField rowSetcur.mask = 0#8 from rfl, nibble_and_ones, BitVec.and_zero, BitVec.and_zero]
  exact ⟨fun h => h.1, fun h => ⟨h, rfl, rfl⟩⟩

theorem rowPutc_matches (w : Word) : rowPutc.matches w = true ↔ opField w = 4#4 ∧ aField w = 0#4 := by
  rw [OpcodeRow.matches_iff, show opField rowPutc.mask = 0xF#4 from rfl, show aField rowPutc.mask = 0xF#4 from rfl,
    show bField rowPutc.mask = 0#8 from rfl, nibble_and_ones, nibble_and_ones, BitVec.and_zero]
  exact ⟨fun h => ⟨h.1, h.2.1⟩, fun h => ⟨h.1, h.2, rfl⟩⟩

theorem rowSendb_matches (w : Word) :
    rowSendb.matches w = true ↔ opField w = 5#4 ∧ (aField w = 0#4 ∨ aField w = 1#4) := by
  rw [OpcodeRow.matches_iff, show opField rowSendb.mask = 0xF#4 from rfl, show aField rowSendb.mask = 0xE#4 from rfl,
    show bField rowSendb.mask = 0#8 from rfl, nibble_and_ones, BitVec.and_zero,
    show opField rowSendb.pattern = 5#4 from rfl, show aField rowSendb.pattern = 0#4 from rfl,
    show bField rowSendb.pattern = 0#8 from rfl]
  have key : ∀ a : Nibble, a &&& 0xE#4 = 0#4 ↔ (a = 0#4 ∨ a = 1#4) := by decide
  rw [key]
  exact ⟨fun h => ⟨h.1, h.2.1⟩, fun h => ⟨h.1, h.2, rfl⟩⟩

theorem rowSendn_matches (w : Word) : rowSendn.matches w = true ↔ opField w = 6#4 ∧ aField w = 0#4 := by
  rw [OpcodeRow.matches_iff, show opField rowSendn.mask = 0xF#4 from rfl, show aField rowSendn.mask = 0xF#4 from rfl,
    show bField rowSendn.mask = 0#8 from rfl, nibble_and_ones, nibble_and_ones, BitVec.and_zero]
  exact ⟨fun h => ⟨h.1, h.2.1⟩, fun h => ⟨h.1, h.2, rfl⟩⟩

/-- Bit 8 of a word is bit 0 of its A field (R103). -/
theorem getLsbD_eight (w : Word) : w.getLsbD 8 = (aField w).getLsbD 0 := by simp [aField]

/-- The low nibble of a word is the low nibble of its B field (R103). -/
theorem lowNibble_word (w : Word) : w.extractLsb' 0 4 = (bField w).extractLsb' 0 4 := by
  simp only [bField]
  ext i hi
  simp

end Sys2Proof
end

