-- ==== Sys2Proof/Laws/State.lean ====
section
/-! SUPPORT. One lemma per field per named operation of Machine/Ops.lean: what it holds afterwards. -/

namespace Sys2Proof.Machine

variable (s : State)

/-! ### elapse -/

@[simp] theorem State.elapse_rs : s.elapse.rs = s.rs := rfl
@[simp] theorem State.elapse_e : s.elapse.e = s.e := rfl
@[simp] theorem State.elapse_d : s.elapse.d = s.d := rfl
@[simp] theorem State.elapse_busy : s.elapse.busy = s.busy := rfl
@[simp] theorem State.elapse_initialized : s.elapse.initialized = s.initialized := rfl
@[simp] theorem State.elapse_done : s.elapse.done = s.done := rfl
@[simp] theorem State.elapse_result : s.elapse.result = s.result := rfl
@[simp] theorem State.elapse_cmdl : s.elapse.cmdl = s.cmdl := rfl
@[simp] theorem State.elapse_exp : s.elapse.exp = s.exp := rfl
@[simp] theorem State.elapse_upc : s.elapse.upc = s.upc := rfl
@[simp] theorem State.elapse_hold : s.elapse.hold = 0 := rfl
@[simp] theorem State.elapse_cfg : s.elapse.cfg = s.cfg := rfl
@[simp] theorem State.elapse_rst : s.elapse.rst = s.rst := rfl
@[simp] theorem State.elapse_cmdValid : s.elapse.cmdValid = s.cmdValid := rfl
@[simp] theorem State.elapse_cmdWord : s.elapse.cmdWord = s.cmdWord := rfl
@[simp] theorem State.elapse_platformCfg : s.elapse.platformCfg = s.platformCfg := rfl
@[simp] theorem State.elapse_hostDelay : s.elapse.hostDelay = s.hostDelay := rfl
@[simp] theorem State.elapse_hostWait : s.elapse.hostWait = s.hostWait := rfl
@[simp] theorem State.elapse_stream : s.elapse.stream = s.stream := rfl
@[simp] theorem State.elapse_now : s.elapse.now = s.now + s.hold := rfl
@[simp] theorem State.elapse_trace : s.elapse.trace = s.trace := rfl
@[simp] theorem State.elapse_freeCount : s.elapse.freeCount = s.freeCount := rfl

/-! ### spendGap -/

@[simp] theorem State.spendGap_rs : s.spendGap.rs = s.rs := rfl
@[simp] theorem State.spendGap_e : s.spendGap.e = s.e := rfl
@[simp] theorem State.spendGap_d : s.spendGap.d = s.d := rfl
@[simp] theorem State.spendGap_busy : s.spendGap.busy = s.busy := rfl
@[simp] theorem State.spendGap_initialized : s.spendGap.initialized = s.initialized := rfl
@[simp] theorem State.spendGap_done : s.spendGap.done = s.done := rfl
@[simp] theorem State.spendGap_result : s.spendGap.result = s.result := rfl
@[simp] theorem State.spendGap_cmdl : s.spendGap.cmdl = s.cmdl := rfl
@[simp] theorem State.spendGap_exp : s.spendGap.exp = s.exp := rfl
@[simp] theorem State.spendGap_upc : s.spendGap.upc = s.upc := rfl
@[simp] theorem State.spendGap_hold : s.spendGap.hold = s.hold := rfl
@[simp] theorem State.spendGap_cfg : s.spendGap.cfg = s.cfg := rfl
@[simp] theorem State.spendGap_rst : s.spendGap.rst = s.rst := rfl
@[simp] theorem State.spendGap_cmdValid : s.spendGap.cmdValid = s.cmdValid := rfl
@[simp] theorem State.spendGap_cmdWord : s.spendGap.cmdWord = s.cmdWord := rfl
@[simp] theorem State.spendGap_platformCfg : s.spendGap.platformCfg = s.platformCfg := rfl
@[simp] theorem State.spendGap_hostDelay : s.spendGap.hostDelay = s.hostDelay := rfl
@[simp] theorem State.spendGap_hostWait : s.spendGap.hostWait = s.hostWait := rfl
@[simp] theorem State.spendGap_stream : s.spendGap.stream = s.stream := rfl
@[simp] theorem State.spendGap_now : s.spendGap.now = s.now + s.cfg.gap s.freeCount := rfl
@[simp] theorem State.spendGap_trace : s.spendGap.trace = s.trace := rfl
@[simp] theorem State.spendGap_freeCount : s.spendGap.freeCount = s.freeCount + 1 := rfl

/-! ### record -/

@[simp] theorem State.record_rs (ev : Event) : (s.record ev).rs = s.rs := rfl
@[simp] theorem State.record_e (ev : Event) : (s.record ev).e = s.e := rfl
@[simp] theorem State.record_d (ev : Event) : (s.record ev).d = s.d := rfl
@[simp] theorem State.record_busy (ev : Event) : (s.record ev).busy = s.busy := rfl
@[simp] theorem State.record_initialized (ev : Event) : (s.record ev).initialized = s.initialized := rfl
@[simp] theorem State.record_done (ev : Event) : (s.record ev).done = s.done := rfl
@[simp] theorem State.record_result (ev : Event) : (s.record ev).result = s.result := rfl
@[simp] theorem State.record_cmdl (ev : Event) : (s.record ev).cmdl = s.cmdl := rfl
@[simp] theorem State.record_exp (ev : Event) : (s.record ev).exp = s.exp := rfl
@[simp] theorem State.record_upc (ev : Event) : (s.record ev).upc = s.upc := rfl
@[simp] theorem State.record_hold (ev : Event) : (s.record ev).hold = s.hold := rfl
@[simp] theorem State.record_cfg (ev : Event) : (s.record ev).cfg = s.cfg := rfl
@[simp] theorem State.record_rst (ev : Event) : (s.record ev).rst = s.rst := rfl
@[simp] theorem State.record_cmdValid (ev : Event) : (s.record ev).cmdValid = s.cmdValid := rfl
@[simp] theorem State.record_cmdWord (ev : Event) : (s.record ev).cmdWord = s.cmdWord := rfl
@[simp] theorem State.record_platformCfg (ev : Event) : (s.record ev).platformCfg = s.platformCfg := rfl
@[simp] theorem State.record_hostDelay (ev : Event) : (s.record ev).hostDelay = s.hostDelay := rfl
@[simp] theorem State.record_hostWait (ev : Event) : (s.record ev).hostWait = s.hostWait := rfl
@[simp] theorem State.record_stream (ev : Event) : (s.record ev).stream = s.stream := rfl
@[simp] theorem State.record_now (ev : Event) : (s.record ev).now = s.now := rfl
@[simp] theorem State.record_trace (ev : Event) : (s.record ev).trace = s.trace ++ [(s.now, ev)] := rfl
@[simp] theorem State.record_freeCount (ev : Event) : (s.record ev).freeCount = s.freeCount := rfl

/-! ### advance -/

@[simp] theorem State.advance_rs : s.advance.rs = s.rs := rfl
@[simp] theorem State.advance_e : s.advance.e = s.e := rfl
@[simp] theorem State.advance_d : s.advance.d = s.d := rfl
@[simp] theorem State.advance_busy : s.advance.busy = s.busy := rfl
@[simp] theorem State.advance_initialized : s.advance.initialized = s.initialized := rfl
@[simp] theorem State.advance_done : s.advance.done = s.done := rfl
@[simp] theorem State.advance_result : s.advance.result = s.result := rfl
@[simp] theorem State.advance_cmdl : s.advance.cmdl = s.cmdl := rfl
@[simp] theorem State.advance_exp : s.advance.exp = s.exp := rfl
@[simp] theorem State.advance_upc : s.advance.upc = s.upc + 1 := rfl
@[simp] theorem State.advance_hold : s.advance.hold = s.hold := rfl
@[simp] theorem State.advance_cfg : s.advance.cfg = s.cfg := rfl
@[simp] theorem State.advance_rst : s.advance.rst = s.rst := rfl
@[simp] theorem State.advance_cmdValid : s.advance.cmdValid = s.cmdValid := rfl
@[simp] theorem State.advance_cmdWord : s.advance.cmdWord = s.cmdWord := rfl
@[simp] theorem State.advance_platformCfg : s.advance.platformCfg = s.platformCfg := rfl
@[simp] theorem State.advance_hostDelay : s.advance.hostDelay = s.hostDelay := rfl
@[simp] theorem State.advance_hostWait : s.advance.hostWait = s.hostWait := rfl
@[simp] theorem State.advance_stream : s.advance.stream = s.stream := rfl
@[simp] theorem State.advance_now : s.advance.now = s.now := rfl
@[simp] theorem State.advance_trace : s.advance.trace = s.trace := rfl
@[simp] theorem State.advance_freeCount : s.advance.freeCount = s.freeCount := rfl

/-! ### setPin_rs -/

@[simp] theorem State.setPin_rs_rs (v : Bool) : (s.setPin (.rs v)).rs = v := rfl
@[simp] theorem State.setPin_rs_e (v : Bool) : (s.setPin (.rs v)).e = s.e := rfl
@[simp] theorem State.setPin_rs_d (v : Bool) : (s.setPin (.rs v)).d = s.d := rfl
@[simp] theorem State.setPin_rs_busy (v : Bool) : (s.setPin (.rs v)).busy = s.busy := rfl
@[simp] theorem State.setPin_rs_initialized (v : Bool) : (s.setPin (.rs v)).initialized = s.initialized := rfl
@[simp] theorem State.setPin_rs_done (v : Bool) : (s.setPin (.rs v)).done = s.done := rfl
@[simp] theorem State.setPin_rs_result (v : Bool) : (s.setPin (.rs v)).result = s.result := rfl
@[simp] theorem State.setPin_rs_cmdl (v : Bool) : (s.setPin (.rs v)).cmdl = s.cmdl := rfl
@[simp] theorem State.setPin_rs_exp (v : Bool) : (s.setPin (.rs v)).exp = s.exp := rfl
@[simp] theorem State.setPin_rs_upc (v : Bool) : (s.setPin (.rs v)).upc = s.upc := rfl
@[simp] theorem State.setPin_rs_hold (v : Bool) : (s.setPin (.rs v)).hold = s.hold := rfl
@[simp] theorem State.setPin_rs_cfg (v : Bool) : (s.setPin (.rs v)).cfg = s.cfg := rfl
@[simp] theorem State.setPin_rs_rst (v : Bool) : (s.setPin (.rs v)).rst = s.rst := rfl
@[simp] theorem State.setPin_rs_cmdValid (v : Bool) : (s.setPin (.rs v)).cmdValid = s.cmdValid := rfl
@[simp] theorem State.setPin_rs_cmdWord (v : Bool) : (s.setPin (.rs v)).cmdWord = s.cmdWord := rfl
@[simp] theorem State.setPin_rs_platformCfg (v : Bool) : (s.setPin (.rs v)).platformCfg = s.platformCfg := rfl
@[simp] theorem State.setPin_rs_hostDelay (v : Bool) : (s.setPin (.rs v)).hostDelay = s.hostDelay := rfl
@[simp] theorem State.setPin_rs_hostWait (v : Bool) : (s.setPin (.rs v)).hostWait = s.hostWait := rfl
@[simp] theorem State.setPin_rs_stream (v : Bool) : (s.setPin (.rs v)).stream = s.stream := rfl
@[simp] theorem State.setPin_rs_now (v : Bool) : (s.setPin (.rs v)).now = s.now := rfl
@[simp] theorem State.setPin_rs_trace (v : Bool) : (s.setPin (.rs v)).trace = s.trace := rfl
@[simp] theorem State.setPin_rs_freeCount (v : Bool) : (s.setPin (.rs v)).freeCount = s.freeCount := rfl

/-! ### setPin_e -/

@[simp] theorem State.setPin_e_rs (v : Bool) : (s.setPin (.e v)).rs = s.rs := rfl
@[simp] theorem State.setPin_e_e (v : Bool) : (s.setPin (.e v)).e = v := rfl
@[simp] theorem State.setPin_e_d (v : Bool) : (s.setPin (.e v)).d = s.d := rfl
@[simp] theorem State.setPin_e_busy (v : Bool) : (s.setPin (.e v)).busy = s.busy := rfl
@[simp] theorem State.setPin_e_initialized (v : Bool) : (s.setPin (.e v)).initialized = s.initialized := rfl
@[simp] theorem State.setPin_e_done (v : Bool) : (s.setPin (.e v)).done = s.done := rfl
@[simp] theorem State.setPin_e_result (v : Bool) : (s.setPin (.e v)).result = s.result := rfl
@[simp] theorem State.setPin_e_cmdl (v : Bool) : (s.setPin (.e v)).cmdl = s.cmdl := rfl
@[simp] theorem State.setPin_e_exp (v : Bool) : (s.setPin (.e v)).exp = s.exp := rfl
@[simp] theorem State.setPin_e_upc (v : Bool) : (s.setPin (.e v)).upc = s.upc := rfl
@[simp] theorem State.setPin_e_hold (v : Bool) : (s.setPin (.e v)).hold = s.hold := rfl
@[simp] theorem State.setPin_e_cfg (v : Bool) : (s.setPin (.e v)).cfg = s.cfg := rfl
@[simp] theorem State.setPin_e_rst (v : Bool) : (s.setPin (.e v)).rst = s.rst := rfl
@[simp] theorem State.setPin_e_cmdValid (v : Bool) : (s.setPin (.e v)).cmdValid = s.cmdValid := rfl
@[simp] theorem State.setPin_e_cmdWord (v : Bool) : (s.setPin (.e v)).cmdWord = s.cmdWord := rfl
@[simp] theorem State.setPin_e_platformCfg (v : Bool) : (s.setPin (.e v)).platformCfg = s.platformCfg := rfl
@[simp] theorem State.setPin_e_hostDelay (v : Bool) : (s.setPin (.e v)).hostDelay = s.hostDelay := rfl
@[simp] theorem State.setPin_e_hostWait (v : Bool) : (s.setPin (.e v)).hostWait = s.hostWait := rfl
@[simp] theorem State.setPin_e_stream (v : Bool) : (s.setPin (.e v)).stream = s.stream := rfl
@[simp] theorem State.setPin_e_now (v : Bool) : (s.setPin (.e v)).now = s.now := rfl
@[simp] theorem State.setPin_e_trace (v : Bool) : (s.setPin (.e v)).trace = s.trace := rfl
@[simp] theorem State.setPin_e_freeCount (v : Bool) : (s.setPin (.e v)).freeCount = s.freeCount := rfl

/-! ### setPin_d -/

@[simp] theorem State.setPin_d_rs (v : Nibble) : (s.setPin (.d v)).rs = s.rs := rfl
@[simp] theorem State.setPin_d_e (v : Nibble) : (s.setPin (.d v)).e = s.e := rfl
@[simp] theorem State.setPin_d_d (v : Nibble) : (s.setPin (.d v)).d = v := rfl
@[simp] theorem State.setPin_d_busy (v : Nibble) : (s.setPin (.d v)).busy = s.busy := rfl
@[simp] theorem State.setPin_d_initialized (v : Nibble) : (s.setPin (.d v)).initialized = s.initialized := rfl
@[simp] theorem State.setPin_d_done (v : Nibble) : (s.setPin (.d v)).done = s.done := rfl
@[simp] theorem State.setPin_d_result (v : Nibble) : (s.setPin (.d v)).result = s.result := rfl
@[simp] theorem State.setPin_d_cmdl (v : Nibble) : (s.setPin (.d v)).cmdl = s.cmdl := rfl
@[simp] theorem State.setPin_d_exp (v : Nibble) : (s.setPin (.d v)).exp = s.exp := rfl
@[simp] theorem State.setPin_d_upc (v : Nibble) : (s.setPin (.d v)).upc = s.upc := rfl
@[simp] theorem State.setPin_d_hold (v : Nibble) : (s.setPin (.d v)).hold = s.hold := rfl
@[simp] theorem State.setPin_d_cfg (v : Nibble) : (s.setPin (.d v)).cfg = s.cfg := rfl
@[simp] theorem State.setPin_d_rst (v : Nibble) : (s.setPin (.d v)).rst = s.rst := rfl
@[simp] theorem State.setPin_d_cmdValid (v : Nibble) : (s.setPin (.d v)).cmdValid = s.cmdValid := rfl
@[simp] theorem State.setPin_d_cmdWord (v : Nibble) : (s.setPin (.d v)).cmdWord = s.cmdWord := rfl
@[simp] theorem State.setPin_d_platformCfg (v : Nibble) : (s.setPin (.d v)).platformCfg = s.platformCfg := rfl
@[simp] theorem State.setPin_d_hostDelay (v : Nibble) : (s.setPin (.d v)).hostDelay = s.hostDelay := rfl
@[simp] theorem State.setPin_d_hostWait (v : Nibble) : (s.setPin (.d v)).hostWait = s.hostWait := rfl
@[simp] theorem State.setPin_d_stream (v : Nibble) : (s.setPin (.d v)).stream = s.stream := rfl
@[simp] theorem State.setPin_d_now (v : Nibble) : (s.setPin (.d v)).now = s.now := rfl
@[simp] theorem State.setPin_d_trace (v : Nibble) : (s.setPin (.d v)).trace = s.trace := rfl
@[simp] theorem State.setPin_d_freeCount (v : Nibble) : (s.setPin (.d v)).freeCount = s.freeCount := rfl

/-! ### setPin -/

@[simp] theorem State.setPin_busy (p : PinWrite) : (s.setPin p).busy = s.busy := by cases p <;> rfl
@[simp] theorem State.setPin_initialized (p : PinWrite) : (s.setPin p).initialized = s.initialized := by cases p <;> rfl
@[simp] theorem State.setPin_done (p : PinWrite) : (s.setPin p).done = s.done := by cases p <;> rfl
@[simp] theorem State.setPin_result (p : PinWrite) : (s.setPin p).result = s.result := by cases p <;> rfl
@[simp] theorem State.setPin_cmdl (p : PinWrite) : (s.setPin p).cmdl = s.cmdl := by cases p <;> rfl
@[simp] theorem State.setPin_exp (p : PinWrite) : (s.setPin p).exp = s.exp := by cases p <;> rfl
@[simp] theorem State.setPin_upc (p : PinWrite) : (s.setPin p).upc = s.upc := by cases p <;> rfl
@[simp] theorem State.setPin_hold (p : PinWrite) : (s.setPin p).hold = s.hold := by cases p <;> rfl
@[simp] theorem State.setPin_cfg (p : PinWrite) : (s.setPin p).cfg = s.cfg := by cases p <;> rfl
@[simp] theorem State.setPin_rst (p : PinWrite) : (s.setPin p).rst = s.rst := by cases p <;> rfl
@[simp] theorem State.setPin_cmdValid (p : PinWrite) : (s.setPin p).cmdValid = s.cmdValid := by cases p <;> rfl
@[simp] theorem State.setPin_cmdWord (p : PinWrite) : (s.setPin p).cmdWord = s.cmdWord := by cases p <;> rfl
@[simp] theorem State.setPin_platformCfg (p : PinWrite) : (s.setPin p).platformCfg = s.platformCfg := by cases p <;> rfl
@[simp] theorem State.setPin_hostDelay (p : PinWrite) : (s.setPin p).hostDelay = s.hostDelay := by cases p <;> rfl
@[simp] theorem State.setPin_hostWait (p : PinWrite) : (s.setPin p).hostWait = s.hostWait := by cases p <;> rfl
@[simp] theorem State.setPin_stream (p : PinWrite) : (s.setPin p).stream = s.stream := by cases p <;> rfl
@[simp] theorem State.setPin_now (p : PinWrite) : (s.setPin p).now = s.now := by cases p <;> rfl
@[simp] theorem State.setPin_trace (p : PinWrite) : (s.setPin p).trace = s.trace := by cases p <;> rfl
@[simp] theorem State.setPin_freeCount (p : PinWrite) : (s.setPin p).freeCount = s.freeCount := by cases p <;> rfl

/-! ### addHold -/

@[simp] theorem State.addHold_rs (t : Time) : (s.addHold t).rs = s.rs := rfl
@[simp] theorem State.addHold_e (t : Time) : (s.addHold t).e = s.e := rfl
@[simp] theorem State.addHold_d (t : Time) : (s.addHold t).d = s.d := rfl
@[simp] theorem State.addHold_busy (t : Time) : (s.addHold t).busy = s.busy := rfl
@[simp] theorem State.addHold_initialized (t : Time) : (s.addHold t).initialized = s.initialized := rfl
@[simp] theorem State.addHold_done (t : Time) : (s.addHold t).done = s.done := rfl
@[simp] theorem State.addHold_result (t : Time) : (s.addHold t).result = s.result := rfl
@[simp] theorem State.addHold_cmdl (t : Time) : (s.addHold t).cmdl = s.cmdl := rfl
@[simp] theorem State.addHold_exp (t : Time) : (s.addHold t).exp = s.exp := rfl
@[simp] theorem State.addHold_upc (t : Time) : (s.addHold t).upc = s.upc := rfl
@[simp] theorem State.addHold_hold (t : Time) : (s.addHold t).hold = s.hold + t := rfl
@[simp] theorem State.addHold_cfg (t : Time) : (s.addHold t).cfg = s.cfg := rfl
@[simp] theorem State.addHold_rst (t : Time) : (s.addHold t).rst = s.rst := rfl
@[simp] theorem State.addHold_cmdValid (t : Time) : (s.addHold t).cmdValid = s.cmdValid := rfl
@[simp] theorem State.addHold_cmdWord (t : Time) : (s.addHold t).cmdWord = s.cmdWord := rfl
@[simp] theorem State.addHold_platformCfg (t : Time) : (s.addHold t).platformCfg = s.platformCfg := rfl
@[simp] theorem State.addHold_hostDelay (t : Time) : (s.addHold t).hostDelay = s.hostDelay := rfl
@[simp] theorem State.addHold_hostWait (t : Time) : (s.addHold t).hostWait = s.hostWait := rfl
@[simp] theorem State.addHold_stream (t : Time) : (s.addHold t).stream = s.stream := rfl
@[simp] theorem State.addHold_now (t : Time) : (s.addHold t).now = s.now := rfl
@[simp] theorem State.addHold_trace (t : Time) : (s.addHold t).trace = s.trace := rfl
@[simp] theorem State.addHold_freeCount (t : Time) : (s.addHold t).freeCount = s.freeCount := rfl

/-! ### setFlag -/

@[simp] theorem State.setFlag_rs (f : Flag) (b : Bool) : (s.setFlag f b).rs = s.rs := by cases f; rfl
@[simp] theorem State.setFlag_e (f : Flag) (b : Bool) : (s.setFlag f b).e = s.e := by cases f; rfl
@[simp] theorem State.setFlag_d (f : Flag) (b : Bool) : (s.setFlag f b).d = s.d := by cases f; rfl
@[simp] theorem State.setFlag_busy (f : Flag) (b : Bool) : (s.setFlag f b).busy = s.busy := by cases f; rfl
@[simp] theorem State.setFlag_initialized (f : Flag) (b : Bool) : (s.setFlag f b).initialized = b := by cases f; rfl
@[simp] theorem State.setFlag_done (f : Flag) (b : Bool) : (s.setFlag f b).done = s.done := by cases f; rfl
@[simp] theorem State.setFlag_result (f : Flag) (b : Bool) : (s.setFlag f b).result = s.result := by cases f; rfl
@[simp] theorem State.setFlag_cmdl (f : Flag) (b : Bool) : (s.setFlag f b).cmdl = s.cmdl := by cases f; rfl
@[simp] theorem State.setFlag_exp (f : Flag) (b : Bool) : (s.setFlag f b).exp = s.exp := by cases f; rfl
@[simp] theorem State.setFlag_upc (f : Flag) (b : Bool) : (s.setFlag f b).upc = s.upc := by cases f; rfl
@[simp] theorem State.setFlag_hold (f : Flag) (b : Bool) : (s.setFlag f b).hold = s.hold := by cases f; rfl
@[simp] theorem State.setFlag_cfg (f : Flag) (b : Bool) : (s.setFlag f b).cfg = s.cfg := by cases f; rfl
@[simp] theorem State.setFlag_rst (f : Flag) (b : Bool) : (s.setFlag f b).rst = s.rst := by cases f; rfl
@[simp] theorem State.setFlag_cmdValid (f : Flag) (b : Bool) : (s.setFlag f b).cmdValid = s.cmdValid := by cases f; rfl
@[simp] theorem State.setFlag_cmdWord (f : Flag) (b : Bool) : (s.setFlag f b).cmdWord = s.cmdWord := by cases f; rfl
@[simp] theorem State.setFlag_platformCfg (f : Flag) (b : Bool) : (s.setFlag f b).platformCfg = s.platformCfg := by cases f; rfl
@[simp] theorem State.setFlag_hostDelay (f : Flag) (b : Bool) : (s.setFlag f b).hostDelay = s.hostDelay := by cases f; rfl
@[simp] theorem State.setFlag_hostWait (f : Flag) (b : Bool) : (s.setFlag f b).hostWait = s.hostWait := by cases f; rfl
@[simp] theorem State.setFlag_stream (f : Flag) (b : Bool) : (s.setFlag f b).stream = s.stream := by cases f; rfl
@[simp] theorem State.setFlag_now (f : Flag) (b : Bool) : (s.setFlag f b).now = s.now := by cases f; rfl
@[simp] theorem State.setFlag_trace (f : Flag) (b : Bool) : (s.setFlag f b).trace = s.trace := by cases f; rfl
@[simp] theorem State.setFlag_freeCount (f : Flag) (b : Bool) : (s.setFlag f b).freeCount = s.freeCount := by cases f; rfl

/-! ### finish -/

@[simp] theorem State.finish_rs (r : ResultCode) : (s.finish r).rs = s.rs := rfl
@[simp] theorem State.finish_e (r : ResultCode) : (s.finish r).e = s.e := rfl
@[simp] theorem State.finish_d (r : ResultCode) : (s.finish r).d = s.d := rfl
@[simp] theorem State.finish_busy (r : ResultCode) : (s.finish r).busy = false := rfl
@[simp] theorem State.finish_initialized (r : ResultCode) : (s.finish r).initialized = s.initialized := rfl
@[simp] theorem State.finish_done (r : ResultCode) : (s.finish r).done = true := rfl
@[simp] theorem State.finish_result (r : ResultCode) : (s.finish r).result = r := rfl
@[simp] theorem State.finish_cmdl (r : ResultCode) : (s.finish r).cmdl = s.cmdl := rfl
@[simp] theorem State.finish_exp (r : ResultCode) : (s.finish r).exp = [] := rfl
@[simp] theorem State.finish_upc (r : ResultCode) : (s.finish r).upc = 0 := rfl
@[simp] theorem State.finish_hold (r : ResultCode) : (s.finish r).hold = s.hold := rfl
@[simp] theorem State.finish_cfg (r : ResultCode) : (s.finish r).cfg = s.cfg := rfl
@[simp] theorem State.finish_rst (r : ResultCode) : (s.finish r).rst = s.rst := rfl
@[simp] theorem State.finish_cmdValid (r : ResultCode) : (s.finish r).cmdValid = s.cmdValid := rfl
@[simp] theorem State.finish_cmdWord (r : ResultCode) : (s.finish r).cmdWord = s.cmdWord := rfl
@[simp] theorem State.finish_platformCfg (r : ResultCode) : (s.finish r).platformCfg = s.platformCfg := rfl
@[simp] theorem State.finish_hostDelay (r : ResultCode) : (s.finish r).hostDelay = s.hostDelay := rfl
@[simp] theorem State.finish_hostWait (r : ResultCode) : (s.finish r).hostWait = s.hostWait := rfl
@[simp] theorem State.finish_stream (r : ResultCode) : (s.finish r).stream = s.stream := rfl
@[simp] theorem State.finish_now (r : ResultCode) : (s.finish r).now = s.now := rfl
@[simp] theorem State.finish_trace (r : ResultCode) : (s.finish r).trace = s.trace := rfl
@[simp] theorem State.finish_freeCount (r : ResultCode) : (s.finish r).freeCount = s.freeCount := rfl

/-! ### load -/

@[simp] theorem State.load_rs (x : List Prim) : (s.load x).rs = s.rs := rfl
@[simp] theorem State.load_e (x : List Prim) : (s.load x).e = s.e := rfl
@[simp] theorem State.load_d (x : List Prim) : (s.load x).d = s.d := rfl
@[simp] theorem State.load_busy (x : List Prim) : (s.load x).busy = true := rfl
@[simp] theorem State.load_initialized (x : List Prim) : (s.load x).initialized = s.initialized := rfl
@[simp] theorem State.load_done (x : List Prim) : (s.load x).done = false := rfl
@[simp] theorem State.load_result (x : List Prim) : (s.load x).result = s.result := rfl
@[simp] theorem State.load_cmdl (x : List Prim) : (s.load x).cmdl = s.cmdl := rfl
@[simp] theorem State.load_exp (x : List Prim) : (s.load x).exp = x := rfl
@[simp] theorem State.load_upc (x : List Prim) : (s.load x).upc = 0 := rfl
@[simp] theorem State.load_hold (x : List Prim) : (s.load x).hold = s.hold := rfl
@[simp] theorem State.load_cfg (x : List Prim) : (s.load x).cfg = s.cfg := rfl
@[simp] theorem State.load_rst (x : List Prim) : (s.load x).rst = s.rst := rfl
@[simp] theorem State.load_cmdValid (x : List Prim) : (s.load x).cmdValid = s.cmdValid := rfl
@[simp] theorem State.load_cmdWord (x : List Prim) : (s.load x).cmdWord = s.cmdWord := rfl
@[simp] theorem State.load_platformCfg (x : List Prim) : (s.load x).platformCfg = s.platformCfg := rfl
@[simp] theorem State.load_hostDelay (x : List Prim) : (s.load x).hostDelay = s.hostDelay := rfl
@[simp] theorem State.load_hostWait (x : List Prim) : (s.load x).hostWait = s.hostWait := rfl
@[simp] theorem State.load_stream (x : List Prim) : (s.load x).stream = s.stream := rfl
@[simp] theorem State.load_now (x : List Prim) : (s.load x).now = s.now := rfl
@[simp] theorem State.load_trace (x : List Prim) : (s.load x).trace = s.trace := rfl
@[simp] theorem State.load_freeCount (x : List Prim) : (s.load x).freeCount = s.freeCount := rfl

/-! ### nextRequest -/

@[simp] theorem State.nextRequest_rs : s.nextRequest.rs = s.rs := by cases h : s.stream <;> simp [State.nextRequest, h]
@[simp] theorem State.nextRequest_e : s.nextRequest.e = s.e := by cases h : s.stream <;> simp [State.nextRequest, h]
@[simp] theorem State.nextRequest_d : s.nextRequest.d = s.d := by cases h : s.stream <;> simp [State.nextRequest, h]
@[simp] theorem State.nextRequest_busy : s.nextRequest.busy = s.busy := by cases h : s.stream <;> simp [State.nextRequest, h]
@[simp] theorem State.nextRequest_initialized : s.nextRequest.initialized = s.initialized := by cases h : s.stream <;> simp [State.nextRequest, h]
@[simp] theorem State.nextRequest_done : s.nextRequest.done = s.done := by cases h : s.stream <;> simp [State.nextRequest, h]
@[simp] theorem State.nextRequest_result : s.nextRequest.result = s.result := by cases h : s.stream <;> simp [State.nextRequest, h]
@[simp] theorem State.nextRequest_cmdl : s.nextRequest.cmdl = s.cmdl := by cases h : s.stream <;> simp [State.nextRequest, h]
@[simp] theorem State.nextRequest_exp : s.nextRequest.exp = s.exp := by cases h : s.stream <;> simp [State.nextRequest, h]
@[simp] theorem State.nextRequest_upc : s.nextRequest.upc = s.upc := by cases h : s.stream <;> simp [State.nextRequest, h]
@[simp] theorem State.nextRequest_hold : s.nextRequest.hold = s.hold := by cases h : s.stream <;> simp [State.nextRequest, h]
@[simp] theorem State.nextRequest_cfg : s.nextRequest.cfg = s.cfg := by cases h : s.stream <;> simp [State.nextRequest, h]
@[simp] theorem State.nextRequest_rst : s.nextRequest.rst = s.rst := by cases h : s.stream <;> simp [State.nextRequest, h]
@[simp] theorem State.nextRequest_cmdValid : s.nextRequest.cmdValid = !s.stream.isEmpty := by cases h : s.stream <;> simp [State.nextRequest, h]
@[simp] theorem State.nextRequest_platformCfg : s.nextRequest.platformCfg = s.platformCfg := by cases h : s.stream <;> simp [State.nextRequest, h]
@[simp] theorem State.nextRequest_hostWait : s.nextRequest.hostWait = s.hostWait := by cases h : s.stream <;> simp [State.nextRequest, h]
@[simp] theorem State.nextRequest_stream : s.nextRequest.stream = s.stream.tail := by cases h : s.stream <;> simp [State.nextRequest, h]
@[simp] theorem State.nextRequest_now : s.nextRequest.now = s.now := by cases h : s.stream <;> simp [State.nextRequest, h]
@[simp] theorem State.nextRequest_trace : s.nextRequest.trace = s.trace := by cases h : s.stream <;> simp [State.nextRequest, h]
@[simp] theorem State.nextRequest_freeCount : s.nextRequest.freeCount = s.freeCount := by cases h : s.stream <;> simp [State.nextRequest, h]

/-! ### applyReset -/

@[simp] theorem State.applyReset_rs : s.applyReset.rs = false := rfl
@[simp] theorem State.applyReset_e : s.applyReset.e = false := rfl
@[simp] theorem State.applyReset_d : s.applyReset.d = 0#4 := rfl
@[simp] theorem State.applyReset_busy : s.applyReset.busy = false := rfl
@[simp] theorem State.applyReset_initialized : s.applyReset.initialized = false := rfl
@[simp] theorem State.applyReset_done : s.applyReset.done = false := rfl
@[simp] theorem State.applyReset_result : s.applyReset.result = .ok := rfl
@[simp] theorem State.applyReset_cmdl : s.applyReset.cmdl = 0#16 := rfl
@[simp] theorem State.applyReset_exp : s.applyReset.exp = [] := rfl
@[simp] theorem State.applyReset_upc : s.applyReset.upc = 0 := rfl
@[simp] theorem State.applyReset_hold : s.applyReset.hold = 0 := rfl
@[simp] theorem State.applyReset_cfg : s.applyReset.cfg = s.platformCfg := rfl
@[simp] theorem State.applyReset_rst : s.applyReset.rst = s.rst := rfl
@[simp] theorem State.applyReset_cmdValid : s.applyReset.cmdValid = s.cmdValid := rfl
@[simp] theorem State.applyReset_cmdWord : s.applyReset.cmdWord = s.cmdWord := rfl
@[simp] theorem State.applyReset_platformCfg : s.applyReset.platformCfg = s.platformCfg := rfl
@[simp] theorem State.applyReset_hostDelay : s.applyReset.hostDelay = s.hostDelay := rfl
@[simp] theorem State.applyReset_hostWait : s.applyReset.hostWait = s.hostWait := rfl
@[simp] theorem State.applyReset_stream : s.applyReset.stream = s.stream := rfl
@[simp] theorem State.applyReset_now : s.applyReset.now = s.now + s.hostDelay := rfl
@[simp] theorem State.applyReset_trace : s.applyReset.trace = s.trace ++ [(s.now + s.hostDelay, .reset s.platformCfg)] := rfl
@[simp] theorem State.applyReset_freeCount : s.applyReset.freeCount = s.freeCount := rfl

/-! ### present -/

@[simp] theorem State.present_rs (w : Word) : (s.present w).rs = s.rs := rfl
@[simp] theorem State.present_e (w : Word) : (s.present w).e = s.e := rfl
@[simp] theorem State.present_d (w : Word) : (s.present w).d = s.d := rfl
@[simp] theorem State.present_busy (w : Word) : (s.present w).busy = false := rfl
@[simp] theorem State.present_initialized (w : Word) : (s.present w).initialized = s.initialized := rfl
@[simp] theorem State.present_done (w : Word) : (s.present w).done = s.done := rfl
@[simp] theorem State.present_result (w : Word) : (s.present w).result = s.result := rfl
@[simp] theorem State.present_cmdl (w : Word) : (s.present w).cmdl = s.cmdl := rfl
@[simp] theorem State.present_exp (w : Word) : (s.present w).exp = s.exp := rfl
@[simp] theorem State.present_upc (w : Word) : (s.present w).upc = s.upc := rfl
@[simp] theorem State.present_hold (w : Word) : (s.present w).hold = s.hold := rfl
@[simp] theorem State.present_cfg (w : Word) : (s.present w).cfg = s.cfg := rfl
@[simp] theorem State.present_rst (w : Word) : (s.present w).rst = false := rfl
@[simp] theorem State.present_cmdValid (w : Word) : (s.present w).cmdValid = true := rfl
@[simp] theorem State.present_cmdWord (w : Word) : (s.present w).cmdWord = w := rfl
@[simp] theorem State.present_platformCfg (w : Word) : (s.present w).platformCfg = s.platformCfg := rfl
@[simp] theorem State.present_hostDelay (w : Word) : (s.present w).hostDelay = s.hostDelay := rfl
@[simp] theorem State.present_hostWait (w : Word) : (s.present w).hostWait = s.hostWait := rfl
@[simp] theorem State.present_stream (w : Word) : (s.present w).stream = s.stream := rfl
@[simp] theorem State.present_now (w : Word) : (s.present w).now = s.now := rfl
@[simp] theorem State.present_trace (w : Word) : (s.present w).trace = s.trace := rfl
@[simp] theorem State.present_freeCount (w : Word) : (s.present w).freeCount = s.freeCount := rfl

/-! ### drive -/

@[simp] theorem State.drive_rs (inp : Inputs) : (s.drive inp).rs = s.rs := rfl
@[simp] theorem State.drive_e (inp : Inputs) : (s.drive inp).e = s.e := rfl
@[simp] theorem State.drive_d (inp : Inputs) : (s.drive inp).d = s.d := rfl
@[simp] theorem State.drive_busy (inp : Inputs) : (s.drive inp).busy = s.busy := rfl
@[simp] theorem State.drive_initialized (inp : Inputs) : (s.drive inp).initialized = s.initialized := rfl
@[simp] theorem State.drive_done (inp : Inputs) : (s.drive inp).done = s.done := rfl
@[simp] theorem State.drive_result (inp : Inputs) : (s.drive inp).result = s.result := rfl
@[simp] theorem State.drive_cmdl (inp : Inputs) : (s.drive inp).cmdl = s.cmdl := rfl
@[simp] theorem State.drive_exp (inp : Inputs) : (s.drive inp).exp = s.exp := rfl
@[simp] theorem State.drive_upc (inp : Inputs) : (s.drive inp).upc = s.upc := rfl
@[simp] theorem State.drive_hold (inp : Inputs) : (s.drive inp).hold = s.hold := rfl
@[simp] theorem State.drive_cfg (inp : Inputs) : (s.drive inp).cfg = s.cfg := rfl
@[simp] theorem State.drive_rst (inp : Inputs) : (s.drive inp).rst = inp.rst := rfl
@[simp] theorem State.drive_cmdValid (inp : Inputs) : (s.drive inp).cmdValid = inp.cmdValid := rfl
@[simp] theorem State.drive_cmdWord (inp : Inputs) : (s.drive inp).cmdWord = inp.cmdWord := rfl
@[simp] theorem State.drive_platformCfg (inp : Inputs) : (s.drive inp).platformCfg = inp.platformCfg := rfl
@[simp] theorem State.drive_hostDelay (inp : Inputs) : (s.drive inp).hostDelay = inp.hostDelay := rfl
@[simp] theorem State.drive_hostWait (inp : Inputs) : (s.drive inp).hostWait = inp.hostWait := rfl
@[simp] theorem State.drive_stream (inp : Inputs) : (s.drive inp).stream = s.stream := rfl
@[simp] theorem State.drive_now (inp : Inputs) : (s.drive inp).now = s.now := rfl
@[simp] theorem State.drive_trace (inp : Inputs) : (s.drive inp).trace = s.trace := rfl
@[simp] theorem State.drive_freeCount (inp : Inputs) : (s.drive inp).freeCount = s.freeCount := rfl

end Sys2Proof.Machine
end

