-- ==== Sys2Proof/Laws/Ops.lean ====
section
/-! SUPPORT. What each shared operation can do, said once: performing primitives, running an expansion, accepting a
command, a step. -/

namespace Sys2Proof.Machine

variable (s : State)

/-! ### emit, complete, perform -/

@[simp] theorem State.emit_trace (p : PinWrite) :
    (s.emit p).trace = s.trace ++ [(s.now + s.cfg.gap s.freeCount, .pin p)] := by simp [State.emit]

@[simp] theorem State.emit_now (p : PinWrite) : (s.emit p).now = s.now + s.cfg.gap s.freeCount := by simp [State.emit]

@[simp] theorem State.complete_trace (r : ResultCode) :
    (s.complete r).trace = s.trace ++ [(s.now + s.cfg.gap s.freeCount, .done r)] := by simp [State.complete]

@[simp] theorem State.complete_now (r : ResultCode) : (s.complete r).now = s.now + s.cfg.gap s.freeCount := by
  simp [State.complete]

/-- `Complete` in full (R213). -/
theorem State.complete_eq (r : ResultCode) :
    s.complete r =
      { s with
        now := s.now + s.cfg.gap s.freeCount, freeCount := s.freeCount + 1,
        trace := s.trace ++ [(s.now + s.cfg.gap s.freeCount, .done r)],
        result := r, done := true, busy := false, exp := [], upc := 0 } := rfl

/-- The event a primitive adds to the trace. -/
def Prim.event : Prim → Option Event
  | .emit p => some (.pin p)
  | .complete r => some (.done r)
  | .hold _ => none
  | .setFlag _ _ => none

/-- `p` is no `Complete`. -/
def Prim.plain : Prim → Bool
  | .complete _ => false
  | .emit _ => true
  | .hold _ => true
  | .setFlag _ _ => true

/-- Performing a primitive appends its event, stamped no earlier than now, and lets no time run back. -/
theorem State.perform_trace (p : Prim) :
    ∃ evs, (s.perform p).trace = s.trace ++ evs ∧ evs.map Prod.snd = p.event.toList ∧
      (∀ ev ∈ evs, ev.1 = (s.perform p).now) ∧ s.now ≤ (s.perform p).now := by
  cases p with
  | emit w => exact ⟨[(s.now + s.cfg.gap s.freeCount, .pin w)], by simp [State.perform, Prim.event]⟩
  | hold t => exact ⟨[], by simp [State.perform, Prim.event]⟩
  | setFlag f b => exact ⟨[], by simp [State.perform, Prim.event]⟩
  | complete r => exact ⟨[(s.now + s.cfg.gap s.freeCount, .done r)], by simp [State.perform, Prim.event]⟩

@[simp] theorem State.perform_cfg (p : Prim) : (s.perform p).cfg = s.cfg := by
  cases p <;> simp [State.perform, State.emit, State.complete]
@[simp] theorem State.perform_cmdl (p : Prim) : (s.perform p).cmdl = s.cmdl := by
  cases p <;> simp [State.perform, State.emit, State.complete]
@[simp] theorem State.perform_rst (p : Prim) : (s.perform p).rst = s.rst := by
  cases p <;> simp [State.perform, State.emit, State.complete]
@[simp] theorem State.perform_cmdValid (p : Prim) : (s.perform p).cmdValid = s.cmdValid := by
  cases p <;> simp [State.perform, State.emit, State.complete]
@[simp] theorem State.perform_cmdWord (p : Prim) : (s.perform p).cmdWord = s.cmdWord := by
  cases p <;> simp [State.perform, State.emit, State.complete]
@[simp] theorem State.perform_platformCfg (p : Prim) : (s.perform p).platformCfg = s.platformCfg := by
  cases p <;> simp [State.perform, State.emit, State.complete]
@[simp] theorem State.perform_hostDelay (p : Prim) : (s.perform p).hostDelay = s.hostDelay := by
  cases p <;> simp [State.perform, State.emit, State.complete]
@[simp] theorem State.perform_hostWait (p : Prim) : (s.perform p).hostWait = s.hostWait := by
  cases p <;> simp [State.perform, State.emit, State.complete]
@[simp] theorem State.perform_stream (p : Prim) : (s.perform p).stream = s.stream := by
  cases p <;> simp [State.perform, State.emit, State.complete]

/-- A primitive that is no `Complete` moves the sequencer on by 1 and leaves EXP, BUSY, DONE and RESULT alone (R38). -/
theorem State.perform_plain (p : Prim) (h : p.plain = true) :
    (s.perform p).upc = s.upc + 1 ∧ (s.perform p).exp = s.exp ∧ (s.perform p).busy = s.busy ∧
      (s.perform p).done = s.done ∧ (s.perform p).result = s.result := by
  cases p <;> simp_all [State.perform, State.emit, Prim.plain]

/-! ### running an expansion -/

/-- The primitives in turn, each after the holds before it have elapsed. -/
def State.performAll (ps : List Prim) (s : State) : State := ps.foldl (fun s p => s.elapse.perform p) s

@[simp] theorem State.performAll_nil : s.performAll [] = s := rfl
@[simp] theorem State.performAll_cons (p : Prim) (ps : List Prim) :
    s.performAll (p :: ps) = (s.elapse.perform p).performAll ps := rfl

/-- An expansion without a `Complete` of its own, then `Complete(r)`: the engine performs it all. -/
theorem State.runPrims_eq (ps : List Prim) (r : ResultCode) (h : ps.all Prim.plain = true) :
    State.runPrims (ps ++ [.complete r]) s = .next ((s.performAll ps).elapse.perform (.complete r)) := by
  induction ps generalizing s with
  | nil => rfl
  | cons p ps ih =>
    simp only [List.all_cons, Bool.and_eq_true] at h
    cases p with
    | complete r => simp [Prim.plain] at h
    | emit w => simpa [State.runPrims] using ih _ h.2
    | hold t => simpa [State.runPrims] using ih _ h.2
    | setFlag f b => simpa [State.runPrims] using ih _ h.2

/-- Every command's own expansion has no `Complete` before its last. -/
theorem bodyOf_plain (cfg : Cfg) (i : Instr) : (bodyOf cfg i).all Prim.plain = true := by cases i <;> rfl

@[simp] theorem State.performAll_cfg (ps : List Prim) : (s.performAll ps).cfg = s.cfg := by
  induction ps generalizing s with
  | nil => rfl
  | cons p ps ih => simp [ih]
@[simp] theorem State.performAll_cmdl (ps : List Prim) : (s.performAll ps).cmdl = s.cmdl := by
  induction ps generalizing s with
  | nil => rfl
  | cons p ps ih => simp [ih]
@[simp] theorem State.performAll_rst (ps : List Prim) : (s.performAll ps).rst = s.rst := by
  induction ps generalizing s with
  | nil => rfl
  | cons p ps ih => simp [ih]
@[simp] theorem State.performAll_cmdValid (ps : List Prim) : (s.performAll ps).cmdValid = s.cmdValid := by
  induction ps generalizing s with
  | nil => rfl
  | cons p ps ih => simp [ih]
@[simp] theorem State.performAll_cmdWord (ps : List Prim) : (s.performAll ps).cmdWord = s.cmdWord := by
  induction ps generalizing s with
  | nil => rfl
  | cons p ps ih => simp [ih]
@[simp] theorem State.performAll_platformCfg (ps : List Prim) : (s.performAll ps).platformCfg = s.platformCfg := by
  induction ps generalizing s with
  | nil => rfl
  | cons p ps ih => simp [ih]
@[simp] theorem State.performAll_hostDelay (ps : List Prim) : (s.performAll ps).hostDelay = s.hostDelay := by
  induction ps generalizing s with
  | nil => rfl
  | cons p ps ih => simp [ih]
@[simp] theorem State.performAll_hostWait (ps : List Prim) : (s.performAll ps).hostWait = s.hostWait := by
  induction ps generalizing s with
  | nil => rfl
  | cons p ps ih => simp [ih]
@[simp] theorem State.performAll_stream (ps : List Prim) : (s.performAll ps).stream = s.stream := by
  induction ps generalizing s with
  | nil => rfl
  | cons p ps ih => simp [ih]

/-- The events of an expansion are those of its primitives, in order (R16, R38). -/
theorem State.performAll_events (ps : List Prim) :
    (s.performAll ps).trace.map Prod.snd = s.trace.map Prod.snd ++ ps.filterMap Prim.event := by
  induction ps generalizing s with
  | nil => simp
  | cons p ps ih =>
    obtain ⟨evs, htr, hev, -, -⟩ := State.perform_trace s.elapse p
    rw [State.performAll_cons, ih, htr]
    simp only [State.elapse_trace, List.map_append, hev, List.append_assoc]
    cases h : p.event <;> simp [h]

/-! ### accepting a command -/

/-- The state in which a command's acceptance loads its expansion: INIT's acceptance clears INITIALIZED (R171). -/
def State.atAcceptance (i : Instr) (s : State) : State :=
  match i with
  | .init => s.clearInitialized (checkOf s .init)
  | .clear => s
  | .setcur _ _ => s
  | .putc _ => s
  | .sendb _ _ => s
  | .sendn _ => s

/-- Every meaning is one acceptance (R112, R212). -/
theorem exec_eq (i : Instr) : exec i s = (s.atAcceptance i).acceptCommand (checkOf s i) (bodyOf s.cfg i) := by
  cases i <;> rfl

/-- Acceptance either runs the command's expansion or raises the failed check's result. -/
theorem State.acceptCommand_cases (check : ResultCode) (body : List Prim) :
    (check = .ok ∧ s.acceptCommand check body = s.runCommand body) ∨
    (check ≠ .ok ∧ s.acceptCommand check body = s.raise check) := by
  cases check <;> simp [State.acceptCommand]

theorem State.atAcceptance_rejected (i : Instr) (h : checkOf s i ≠ .ok) : s.atAcceptance i = s := by
  cases i <;> simp_all [State.atAcceptance, State.clearInitialized]

theorem State.atAcceptance_init (h : checkOf s .init = .ok) :
    s.atAcceptance .init = { s with initialized := false } := by
  simp [State.atAcceptance, State.clearInitialized, h, State.setFlag]

/-- A command that passes its checks under a waiting host runs to completion (R212, R213). -/
theorem exec_ok (i : Instr) (hw : s.hostWait = .untilReady) (hc : checkOf s i = .ok) :
    exec i s = .next ((((s.atAcceptance i).load (bodyOf s.cfg i ++ [.complete .ok])).performAll
      (bodyOf s.cfg i)).elapse.complete .ok) := by
  have hw' : (s.atAcceptance i).hostWait = .untilReady := by
    cases i <;> simp [State.atAcceptance, State.clearInitialized, hw]
    split <;> simp [hw]
  rw [exec_eq, hc]
  simp only [State.acceptCommand, State.runCommand, State.proceed, State.load_hostWait, hw', State.runToCompletion,
    State.load_exp, State.load_upc, List.drop_zero]
  exact State.runPrims_eq _ _ _ (bodyOf_plain s.cfg i)

/-- An error result under a waiting host: BUSY, DONE, RESULT, the sequencer and the trace's `Done(r)`, nothing else
(R214). -/
theorem State.raise_untilReady (r : ResultCode) (hw : s.hostWait = .untilReady) :
    s.raise r = .next ((s.load [.complete r]).elapse.complete r) := by
  simp [State.raise, State.proceed, hw, State.runToCompletion, State.runPrims, State.perform]

/-- An error result under a polling host: the single primitive is loaded (R38). -/
theorem State.raise_poll (r : ResultCode) (hw : s.hostWait = .poll) : s.raise r = .next (s.load [.complete r]) := by
  simp [State.raise, State.proceed, hw]

/-- A command that fails a check (R212, R214). -/
theorem exec_rejected (i : Instr) (hc : checkOf s i ≠ .ok) : exec i s = s.raise (checkOf s i) := by
  rw [exec_eq, State.atAcceptance_rejected s i hc]
  rcases State.acceptCommand_cases s (checkOf s i) (bodyOf s.cfg i) with ⟨h, -⟩ | ⟨-, h⟩
  · exact absurd h hc
  · exact h

/-! ### a step -/

/-- Everything one step can do. -/
theorem step_cases :
    (s.rst = true ∧ step s = .next s.applyReset) ∨
    (s.rst = false ∧ s.busy = true ∧ step s = s.continueCommand) ∨
    (s.rst = false ∧ s.busy = false ∧ s.cmdValid = true ∧ ∃ i, decode s.cmdWord = .ok i ∧ step s = exec i s.latch) ∨
    (s.rst = false ∧ s.busy = false ∧ s.cmdValid = true ∧ (∃ e, decode s.cmdWord = .error e) ∧
      step s = s.latch.rejectWord) ∨
    (s.rst = false ∧ s.busy = false ∧ s.cmdValid = false ∧ step s = .next s) := by
  unfold step
  cases hr : s.rst <;> cases hb : s.busy <;> cases hv : s.cmdValid <;> cases hd : decode s.cmdWord <;> simp

/-- One engine step: the holds elapse, or the primitive at UPC is performed, or the sequencer is stuck (R38). -/
theorem State.engineStep_cases :
    (s.hold ≠ 0 ∧ s.engineStep = .next s.elapse) ∨
    (s.hold = 0 ∧ ∃ p, s.exp[s.upc]? = some p ∧ s.engineStep = .next (s.perform p)) ∨
    (s.hold = 0 ∧ s.exp[s.upc]? = none ∧ s.engineStep = .fault .sequencerStuck) := by
  unfold State.engineStep
  by_cases h : s.hold = 0 <;> cases hp : s.exp[s.upc]? <;> simp [h]

end Sys2Proof.Machine
end

