-- ==== Sys2Proof/Laws/Step.lean ====
section
/-! SUPPORT. Induction over a step, packaged once: what every operation keeps, every step keeps. -/

namespace Sys2Proof.Machine

/-- What the holds' elapsing and every primitive keep, running an expansion keeps. -/
theorem State.runPrims_keeps (P : State → Prop) (helapse : ∀ s, P s → P s.elapse) (hperform : ∀ p s, P s → P (s.perform p))
    (ps : List Prim) (s t : State) (hs : P s) (h : State.runPrims ps s = .next t) : P t := by
  induction ps generalizing s with
  | nil => simp [State.runPrims] at h
  | cons p ps ih =>
    cases p with
    | complete r =>
      obtain rfl : s.elapse.perform (.complete r) = t := by simpa [State.runPrims] using h
      exact hperform _ _ (helapse _ hs)
    | emit w => exact ih _ (hperform _ _ (helapse _ hs)) h
    | hold d => exact ih _ (hperform _ _ (helapse _ hs)) h
    | setFlag f b => exact ih _ (hperform _ _ (helapse _ hs)) h

/-- What the operations keep, an acceptance keeps. -/
theorem State.proceed_keeps (P : State → Prop) (helapse : ∀ s, P s → P s.elapse) (hperform : ∀ p s, P s → P (s.perform p))
    (s t : State) (hs : P s) (h : s.proceed = .next t) : P t := by
  unfold State.proceed at h
  split at h
  · cases h; exact hs
  · exact State.runPrims_keeps P helapse hperform _ s t hs h

theorem exec_keeps (P : State → Prop) (helapse : ∀ s, P s → P s.elapse) (hperform : ∀ p s, P s → P (s.perform p))
    (hload : ∀ x s, P s → P (s.load x)) (hflag : ∀ f b s, P s → P (s.setFlag f b))
    (i : Instr) (s t : State) (hs : P s) (h : exec i s = .next t) : P t := by
  rw [exec_eq] at h
  have ha : P (s.atAcceptance i) := by
    cases i with
    | init =>
      simp only [State.atAcceptance, State.clearInitialized]
      split
      · exact hflag _ _ _ hs
      · exact hs
    | clear => exact hs
    | setcur r c => exact hs
    | putc c => exact hs
    | sendb d v => exact hs
    | sendn n => exact hs
  rcases State.acceptCommand_cases (s.atAcceptance i) (checkOf s i) (bodyOf s.cfg i) with ⟨-, he⟩ | ⟨-, he⟩
  · exact State.proceed_keeps P helapse hperform _ t (hload _ _ ha) (he ▸ h)
  · exact State.proceed_keeps P helapse hperform _ t (hload _ _ ha) (he ▸ h)

/-- What every operation keeps, every step keeps. -/
theorem step_keeps (P : State → Prop) (helapse : ∀ s, P s → P s.elapse) (hperform : ∀ p s, P s → P (s.perform p))
    (hload : ∀ x s, P s → P (s.load x)) (hflag : ∀ f b s, P s → P (s.setFlag f b)) (hlatch : ∀ s, P s → P s.latch)
    (hreset : ∀ s, P s → P s.applyReset) (s t : State) (hs : P s) (h : step s = .next t) : P t := by
  rcases step_cases s with ⟨-, he⟩ | ⟨-, -, he⟩ | ⟨-, -, -, i, -, he⟩ | ⟨-, -, -, -, he⟩ | ⟨-, -, -, he⟩ <;> rw [he] at h
  · cases h; exact hreset _ hs
  · unfold State.continueCommand at h
    split at h
    · rcases State.engineStep_cases s with ⟨-, h1⟩ | ⟨-, p, -, h1⟩ | ⟨-, -, h1⟩ <;> rw [h1] at h
      · cases h; exact helapse _ hs
      · cases h; exact hperform _ _ hs
      · simp at h
    · exact State.runPrims_keeps P helapse hperform _ s t hs h
  · exact exec_keeps P helapse hperform hload hflag i _ t (hlatch _ hs) h
  · exact State.proceed_keeps P helapse hperform _ t (hload _ _ (hlatch _ hs)) h
  · cases h; exact hs

@[simp] theorem State.latch_trace (s : State) :
    s.latch.trace = s.trace ++ [(s.now + (s.cfg.tickNs + s.hostDelay), .accept s.cmdWord)] := by simp [State.latch]
@[simp] theorem State.latch_now (s : State) : s.latch.now = s.now + (s.cfg.tickNs + s.hostDelay) := by simp [State.latch]
@[simp] theorem State.latch_cmdl (s : State) : s.latch.cmdl = s.cmdWord := by simp [State.latch]
@[simp] theorem State.latch_rs (s : State) : s.latch.rs = s.rs := by simp [State.latch]
@[simp] theorem State.latch_e (s : State) : s.latch.e = s.e := by simp [State.latch]
@[simp] theorem State.latch_d (s : State) : s.latch.d = s.d := by simp [State.latch]
@[simp] theorem State.latch_busy (s : State) : s.latch.busy = s.busy := by simp [State.latch]
@[simp] theorem State.latch_initialized (s : State) : s.latch.initialized = s.initialized := by simp [State.latch]
@[simp] theorem State.latch_done (s : State) : s.latch.done = s.done := by simp [State.latch]
@[simp] theorem State.latch_result (s : State) : s.latch.result = s.result := by simp [State.latch]
@[simp] theorem State.latch_exp (s : State) : s.latch.exp = s.exp := by simp [State.latch]
@[simp] theorem State.latch_upc (s : State) : s.latch.upc = s.upc := by simp [State.latch]
@[simp] theorem State.latch_hold (s : State) : s.latch.hold = s.hold := by simp [State.latch]
@[simp] theorem State.latch_cfg (s : State) : s.latch.cfg = s.cfg := by simp [State.latch]
@[simp] theorem State.latch_rst (s : State) : s.latch.rst = s.rst := by simp [State.latch]
@[simp] theorem State.latch_hostWait (s : State) : s.latch.hostWait = s.hostWait := by simp [State.latch]
@[simp] theorem State.latch_platformCfg (s : State) : s.latch.platformCfg = s.platformCfg := by simp [State.latch]
@[simp] theorem State.latch_stream (s : State) : s.latch.stream = s.stream.tail := by simp [State.latch]
@[simp] theorem State.latch_freeCount (s : State) : s.latch.freeCount = s.freeCount := by simp [State.latch]

/-- The checks read CFG_OK and INITIALIZED alone (R212). -/
@[simp] theorem checkOf_latch (s : State) (i : Instr) : checkOf s.latch i = checkOf s i := by
  cases i <;> simp [checkOf, State.acceptCheck, State.cfgOk]

end Sys2Proof.Machine
end

