-- ==== Sys2Proof/Laws/Expansion.lean ====
section
/-! SUPPORT. The pin events of the micro-routines and of the commands' expansions, and the shape of an expansion. -/

namespace Sys2Proof.Machine

@[simp] theorem maskNibble_toNat (n : Nibble) : maskNibble n.toNat = n := by simp [maskNibble]

theorem highNibble_append_lowNibble (b : Byte) : highNibble b ++ lowNibble b = b := by
  simp only [highNibble, lowNibble]
  ext i hi
  simp
  grind

@[simp] theorem pulseEnable_events (cfg : Cfg) :
    (pulseEnable cfg).filterMap Prim.event = [.pin (.e true), .pin (.e false)] := rfl

@[simp] theorem sendNibble_events (cfg : Cfg) (n : Nat) :
    (sendNibble cfg n).filterMap Prim.event = nibbleEvents (maskNibble n) := rfl

@[simp] theorem sendByte_events (cfg : Cfg) (b : Byte) (isData : Bool) :
    (sendByte cfg b isData).filterMap Prim.event = byteEvents isData b := by
  simp [sendByte, nibbleEvents, byteEvents, Prim.event]
  exact ⟨rfl, rfl⟩

/-- A single byte's command emits that byte and nothing else (R150, R155, R156, R190, R193). -/
theorem bodyOf_events_byte (cfg : Cfg) (i : Instr) (isData : Bool) (b : Byte) (h : byteOf i = some (isData, b)) :
    (bodyOf cfg i).filterMap Prim.event = byteEvents isData b := by
  cases i <;> simp only [byteOf, Option.some.injEq, Prod.mk.injEq, reduceCtorEq] at h <;> obtain ⟨rfl, rfl⟩ := h <;>
    simp [bodyOf, clearBody, setcurBody, putcBody, sendbBody, instructionByte, Prim.event]

@[simp] theorem bodyOf_events_init (cfg : Cfg) : (bodyOf cfg .init).filterMap Prim.event = initEvents := rfl

@[simp] theorem bodyOf_events_sendn (cfg : Cfg) (n : Nibble) :
    (bodyOf cfg (.sendn n)).filterMap Prim.event = nibbleEvents n := by
  simp [bodyOf, sendnBody]

/-- Every expansion starts with E low and fits the pins (R134, R213, R247). -/
theorem bodyOf_planShape (cfg : Cfg) (i : Instr) : planShape false (bodyOf cfg i ++ [.complete .ok]) = true := by
  cases i <;> rfl

/-- INIT's expansion alone writes a flag (R39). -/
theorem setFlag_mem_bodyOf (cfg : Cfg) (i : Instr) (f : Flag) (b : Bool)
    (h : .setFlag f b ∈ bodyOf cfg i ++ [.complete .ok]) : i = .init := by
  cases i <;> simp [bodyOf, clearBody, setcurBody, putcBody, sendbBody, sendnBody, instructionByte, sendByte, sendNibble,
    pulseEnable] at h ⊢

/-- The primitive at UPC is the first of what is left. -/
theorem State.drop_eq_cons (s : State) (p : Prim) (h : s.exp[s.upc]? = some p) :
    s.exp.drop s.upc = p :: s.exp.drop (s.upc + 1) := by
  obtain ⟨hlt, he⟩ := List.getElem?_eq_some_iff.mp h
  rw [List.drop_eq_getElem_cons hlt, he]

end Sys2Proof.Machine
end

