-- ==== Sys2Proof/Laws/Memory.lean ====
section
/-! SUPPORT. The laws of the observer's DDRAM: read after write, and that every operation keeps the canonical form. -/

namespace Sys2Proof.Machine

@[simp] theorem Memory.read_unknown (a : Nat) : Memory.read Memory.unknown a = none := rfl

theorem Memory.read_write (m : Memory) (a k : Nat) (b : Byte) :
    (Memory.write m a b).read k = if k = a then some b else m.read k := by
  induction m with
  | nil =>
    simp only [Memory.write, Memory.read]
    grind
  | cons c m ih =>
    obtain ⟨j, v⟩ := c
    simp only [Memory.write]
    split
    · simp only [Memory.read]
      grind
    · split
      · simp only [Memory.read]
        grind
      · simp only [Memory.read, ih]
        grind

@[simp] theorem Memory.read_write_same (m : Memory) (a : Nat) (b : Byte) : (Memory.write m a b).read a = some b := by
  simp [Memory.read_write]

theorem Memory.read_write_other (m : Memory) {a k : Nat} (b : Byte) (h : k ≠ a) :
    (Memory.write m a b).read k = m.read k := by
  simp [Memory.read_write, h]

theorem Memory.risesFrom_write (m : Memory) (lo a : Nat) (b : Byte) (hm : m.risesFrom lo = true) (hlo : lo ≤ a)
    (ha : a < ddramSize) : (Memory.write m a b).risesFrom lo = true := by
  induction m generalizing lo with
  | nil => simp [Memory.write, Memory.risesFrom, hlo, ha]
  | cons c m ih =>
    obtain ⟨j, v⟩ := c
    simp only [Memory.risesFrom, Bool.and_eq_true, decide_eq_true_eq] at hm
    simp only [Memory.write]
    split
    · simp only [Memory.risesFrom, Bool.and_eq_true, decide_eq_true_eq]
      exact ⟨⟨hlo, ha⟩, ⟨by omega, hm.1.2⟩, hm.2⟩
    · split
      · next h1 h2 =>
        subst h2
        simp only [Memory.risesFrom, Bool.and_eq_true, decide_eq_true_eq]
        exact ⟨⟨hlo, ha⟩, hm.2⟩
      · simp only [Memory.risesFrom, Bool.and_eq_true, decide_eq_true_eq]
        exact ⟨hm.1, ih (j + 1) hm.2 (by omega)⟩

/-- Writing a DDRAM address keeps the canonical form. -/
theorem Memory.wf_write (m : Memory) (a : Nat) (b : Byte) (hm : m.wf = true) (ha : a < ddramSize) :
    (Memory.write m a b).wf = true :=
  Memory.risesFrom_write m 0 a b hm (Nat.zero_le a) ha

@[simp] theorem Memory.wf_unknown : Memory.wf Memory.unknown = true := rfl

theorem Memory.risesFrom_map_range' (b : Byte) (lo n : Nat) (h : lo + n ≤ ddramSize) :
    Memory.risesFrom lo ((List.range' lo n).map (fun a => (a, b))) = true := by
  induction n generalizing lo with
  | zero => simp [Memory.risesFrom]
  | succ n ih =>
    simp only [List.range'_succ, List.map_cons, Memory.risesFrom, Bool.and_eq_true, decide_eq_true_eq]
    exact ⟨⟨Nat.le_refl _, by omega⟩, ih (lo + 1) (by omega)⟩

@[simp] theorem Memory.wf_fill (b : Byte) : (Memory.fill b).wf = true := by
  rw [Memory.wf, Memory.fill, List.range_eq_range']
  exact Memory.risesFrom_map_range' b 0 ddramSize (by simp)

theorem Memory.read_map_const (l : List Nat) (b : Byte) (a : Nat) (h : a ∈ l) :
    Memory.read (l.map (fun k => (k, b))) a = some b := by
  induction l with
  | nil => simp at h
  | cons k l ih =>
    simp only [List.map_cons, Memory.read]
    split
    · rfl
    · exact ih (by grind)

/-- After Clear every DDRAM address reads as the blank. -/
theorem Memory.read_fill (b : Byte) (a : Nat) (h : a < ddramSize) : (Memory.fill b).read a = some b :=
  Memory.read_map_const _ b a (List.mem_range.mpr h)

end Sys2Proof.Machine
end

