-- ==== Sys2Proof/Laws/PerInstr.lean ====
section
/-! SUPPORT. Per-instruction laws of the syntax: what each command's word is made of. -/

namespace Sys2Proof.Laws.Encoding

/-- The opcode of R101. -/
def opcodeOf : Instr → BitVec 4
  | .init => 1#4
  | .clear => 2#4
  | .setcur _ _ => 3#4
  | .putc _ => 4#4
  | .sendb _ _ => 5#4
  | .sendn _ => 6#4

/-- A command is well formed (R110), its word carries its opcode (R101) and its reserved-zero bits are 0 (R105). -/
def Statement (i : Instr) : Prop :=
  i.wellFormed = true ∧ opField (encode i) = opcodeOf i ∧ reservedZeroBits (encode i) = 0#16

theorem init : Statement .init := ⟨rfl, rfl, rfl⟩

theorem clear : Statement .clear := ⟨rfl, rfl, rfl⟩

theorem setcur (row : Nibble) (column : Byte) : Statement (.setcur row column) := by
  have hr := row.isLt
  have hc := column.isLt
  have hop : opField (encode (.setcur row column)) = 3#4 := opField_append 3#4 row column
  refine ⟨?_, hop, by rw [reservedZeroBits, hop]; rfl⟩
  simp only [Instr.wellFormed, Instr.toLine, AsmLine.wellFormed, Bool.and_eq_true, decide_eq_true_eq]
  omega

theorem putc (char : Byte) : Statement (.putc char) := by
  have hc := char.isLt
  have hw : encode (.putc char) = 4#4 ++ 0#4 ++ char := rfl
  have hop : opField (encode (.putc char)) = 4#4 := by rw [hw, opField_append]
  refine ⟨?_, hop, ?_⟩
  · simp only [Instr.wellFormed, Instr.toLine, AsmLine.wellFormed, decide_eq_true_eq]
    omega
  · rw [reservedZeroBits, hop, hw]
    exact (and_fields 4#4 0#4 0#4 0xF#4 char 0#8).trans (by rw [show char &&& 0#8 = 0#8 from BitVec.and_zero]; rfl)

theorem sendb (isData : Bool) (value : Byte) : Statement (.sendb isData value) := by
  have hv := value.isLt
  have hw : encode (.sendb isData value) = 5#4 ++ (0#3 ++ BitVec.ofBool isData) ++ value := by cases isData <;> rfl
  have hop : opField (encode (.sendb isData value)) = 5#4 := by rw [hw, opField_append]
  refine ⟨?_, hop, ?_⟩
  · simp only [Instr.wellFormed, Instr.toLine, AsmLine.wellFormed, decide_eq_true_eq]
    omega
  · rw [reservedZeroBits, hop, hw]
    exact (and_fields 5#4 _ 0#4 0xE#4 value 0#8).trans
      (by rw [show value &&& 0#8 = 0#8 from BitVec.and_zero]; cases isData <;> rfl)

theorem sendn (nibble : Nibble) : Statement (.sendn nibble) := by
  have hn := nibble.isLt
  have hw : encode (.sendn nibble) = 6#4 ++ 0#4 ++ (0#4 ++ nibble) := by
    simp only [encode]
    ext i hi
    simp
    grind
  have hop : opField (encode (.sendn nibble)) = 6#4 := by rw [hw, opField_append]
  refine ⟨?_, hop, ?_⟩
  · simp only [Instr.wellFormed, Instr.toLine, AsmLine.wellFormed, decide_eq_true_eq]
    omega
  · rw [reservedZeroBits, hop, hw]
    exact (and_fields 6#4 0#4 0#4 0xF#4 _ 0#8).trans
      (by rw [show (0#4 ++ nibble : Byte) &&& 0#8 = 0#8 from BitVec.and_zero]; rfl)

end Sys2Proof.Laws.Encoding
end

