-- ==== Sys2Proof/Laws/Time.lean ====
section
/-! SUPPORT. Times, gaps and readings of a trace: comparing times as rationals, the bounds of a gap, appending to a
trace, the time an expansion takes, the last write of a pin. -/

namespace Sys2Proof.Machine

/-- Comparisons and sums of times are those of rationals, where `linarith` works. -/
theorem time_le_iff {a b : Time} : a ≤ b ↔ a.toRat ≤ b.toRat := Iff.rfl
theorem time_lt_iff {a b : Time} : a < b ↔ a.toRat < b.toRat := Iff.rfl
theorem time_eq_iff {a b : Time} : a = b ↔ a.toRat = b.toRat := Subtype.ext_iff
@[simp] theorem toRat_nonneg (a : Time) : 0 ≤ a.toRat := a.property
@[simp] theorem toRat_zero : Time.toRat 0 = 0 := rfl
@[simp] theorem toRat_one : Time.toRat 1 = 1 := rfl
@[simp] theorem toRat_natCast (n : Nat) : Time.toRat n = n := rfl
@[simp] theorem toRat_ofNat (n : Nat) [n.AtLeastTwo] : Time.toRat (OfNat.ofNat n) = OfNat.ofNat n := rfl
@[simp] theorem toRat_add (a b : Time) : (a + b).toRat = a.toRat + b.toRat := rfl
@[simp] theorem toRat_mul (a b : Time) : (a * b).toRat = a.toRat * b.toRat := rfl

/-- REF meets every minimum of R8, whatever its clock period. -/
theorem reference_conforming : Cfg.reference.conforming = true := by
  simp only [Cfg.conforming, Cfg.wellFormed, Cfg.reference, Bool.and_eq_true]
  norm_num

/-- A gap is stretched by at most `SLACK`, where that is given (R131, R259). -/
theorem gap_le_slack (c : Cfg) (k : Nat) (b : Time) (h : c.slack = some b) : c.gap k ≤ b := by
  simp only [Cfg.gap, h]
  split
  · next h0 => exact h0 ▸ le_refl _
  · exact min_le_right _ _

theorem gap_slack_zero (c : Cfg) (k : Nat) (h : c.slack = some 0) : c.gap k = 0 := by simp [Cfg.gap, h]

/-- Appending an event that is not earlier than the present keeps a trace in order and in the past (R16). -/
theorem chronological_append {tr : Trace} {n m : Time} {ev : Event} (hc : chronological tr) (hp : ∀ e ∈ tr, e.1 ≤ n)
    (hm : n ≤ m) : chronological (tr ++ [(m, ev)]) ∧ ∀ e ∈ tr ++ [(m, ev)], e.1 ≤ m := by
  have hle : ∀ e ∈ tr, e.1 ≤ m := fun e he => (hp e he).trans hm
  refine ⟨List.pairwise_append.2 ⟨hc, by simp, fun a ha b hb => ?_⟩, fun e he => ?_⟩
  · obtain rfl := List.mem_singleton.1 hb
    exact hle a ha
  · rcases List.mem_append.1 he with he | he
    · exact hle e he
    · obtain rfl := List.mem_singleton.1 he
      exact le_refl _

/-- A step only appends to the trace, events no earlier than the present, and lets no time run back (R16). -/
theorem step_appends (s t : State) (h : step s = .next t) :
    ∃ evs, t.trace = s.trace ++ evs ∧ (∀ ev ∈ evs, s.now ≤ ev.1) ∧ s.now ≤ t.now := by
  have one : ∀ (u : State) (evs : Trace) (n : Time) (ev : Event),
      (∀ ev ∈ evs, s.now ≤ ev.1) → s.now ≤ u.now → u.now ≤ n → ∀ e ∈ evs ++ [(n, ev)], s.now ≤ e.1 := by
    intro u evs n ev h2 h3 hn e he
    rcases List.mem_append.1 he with he | he
    · exact h2 e he
    · obtain rfl := List.mem_singleton.1 he
      exact h3.trans hn
  refine step_keeps (fun u => ∃ evs, u.trace = s.trace ++ evs ∧ (∀ ev ∈ evs, s.now ≤ ev.1) ∧ s.now ≤ u.now)
    ?_ ?_ ?_ ?_ ?_ ?_ s t ⟨[], by simp⟩ h
  · exact fun u ⟨evs, h1, h2, h3⟩ => ⟨evs, h1, h2, h3.trans (by simp)⟩
  · rintro p u ⟨evs, h1, h2, h3⟩
    obtain ⟨more, g1, -, g3, g4⟩ := State.perform_trace u p
    refine ⟨evs ++ more, by rw [g1, h1, List.append_assoc], fun ev he => ?_, h3.trans g4⟩
    rcases List.mem_append.1 he with he | he
    · exact h2 ev he
    · exact g3 ev he ▸ h3.trans g4
  · exact fun _ _ h => h
  · exact fun f _ _ h => by cases f; exact h
  · exact fun u ⟨evs, h1, h2, h3⟩ => ⟨_, by rw [State.latch_trace, h1, List.append_assoc],
      one u evs _ _ h2 h3 le_self_add, h3.trans (by simp)⟩
  · exact fun u ⟨evs, h1, h2, h3⟩ => ⟨evs ++ [(u.now + u.hostDelay, .reset u.platformCfg)],
      by simp [State.applyReset, State.record, h1], one u evs _ _ h2 h3 le_self_add,
      h3.trans (by simp [State.applyReset, State.record])⟩

/-- What a primitive holds. -/
def Prim.holdTime : Prim → Time
  | .hold t => t
  | .emit _ => 0
  | .setFlag _ _ => 0
  | .complete _ => 0

/-- The time an expansion takes is at least the sum of its holds (R131), and exactly that where `SLACK` = 0. -/
theorem State.performAll_time (ps : List Prim) (s : State) :
    s.now + s.hold + (ps.map Prim.holdTime).sum ≤ (s.performAll ps).now + (s.performAll ps).hold ∧
    (s.cfg.slack = some 0 →
      (s.performAll ps).now + (s.performAll ps).hold = s.now + s.hold + (ps.map Prim.holdTime).sum) := by
  induction ps generalizing s with
  | nil => simp
  | cons p ps ih =>
    have hp : s.now + s.hold + p.holdTime ≤ (s.elapse.perform p).now + (s.elapse.perform p).hold ∧
        (s.cfg.slack = some 0 →
          (s.elapse.perform p).now + (s.elapse.perform p).hold = s.now + s.hold + p.holdTime) := by
      cases p with
      | emit w =>
        exact ⟨by simp [State.perform, State.emit, Prim.holdTime],
          fun h => by simp [State.perform, State.emit, Prim.holdTime, gap_slack_zero _ _ h]⟩
      | hold t => exact ⟨by simp [State.perform, Prim.holdTime], fun _ => by simp [State.perform, Prim.holdTime]⟩
      | setFlag f b => exact ⟨by simp [State.perform, Prim.holdTime], fun _ => by simp [State.perform, Prim.holdTime]⟩
      | complete r =>
        exact ⟨by simp [State.perform, State.complete, Prim.holdTime],
          fun h => by simp [State.perform, State.complete, Prim.holdTime, gap_slack_zero _ _ h]⟩
    have hn := ih (s.elapse.perform p)
    simp only [List.map_cons, List.sum_cons, State.performAll_cons]
    constructor
    · rw [← add_assoc]
      exact (add_le_add hp.1 le_rfl).trans hn.1
    · intro h
      rw [hn.2 (by simpa using h), hp.2 h, add_assoc]

/-- Events after time `x` write no level at `x`. -/
theorem lastWritten_append_later {α : Type} (written : Event → Option α) (r : α) (tr evs : Trace) (x : Time)
    (h : ∀ ev ∈ evs, x < ev.1) : lastWritten written r (tr ++ evs) x = lastWritten written r tr x := by
  have hn : evs.filter (fun ev => decide (ev.1 ≤ x)) = [] :=
    List.filter_eq_nil_iff.2 fun ev he => by simpa using h ev he
  simp [lastWritten, hn]

/-- At the end of a trace every event counts. -/
theorem lastWritten_end {α : Type} (written : Event → Option α) (r : α) (tr : Trace) (t : Time) (h : ∀ ev ∈ tr, ev.1 ≤ t) :
    lastWritten written r tr t = ((eventsOf tr).filterMap written).getLast?.getD r := by
  rw [lastWritten, List.filter_eq_self.2 fun ev he => by simpa using h ev he, eventsOf, List.filterMap_map]
  rfl

/-- One event's part in the levels is what it writes to each pin. -/
theorem Levels.after_eq (l : Levels) (ev : Event) :
    l.after ev = ⟨(rsWritten ev).getD l.rs, (eWritten ev).getD l.e, (dWritten ev).getD l.d⟩ := by
  rcases ev with w | p | r | c
  · rfl
  · cases p <;> rfl
  · rfl
  · rfl

/-- The levels of a list of events are the last writes of the three pins. -/
theorem foldl_levels (evs : List Event) (l : Levels) :
    evs.foldl Levels.after l =
      ⟨(evs.filterMap rsWritten).getLast?.getD l.rs, (evs.filterMap eWritten).getLast?.getD l.e,
        (evs.filterMap dWritten).getLast?.getD l.d⟩ := by
  induction evs using List.reverseRecOn with
  | nil => rfl
  | append_singleton evs ev ih =>
    rw [List.foldl_append, List.foldl_cons, List.foldl_nil, Levels.after_eq, ih]
    cases hr : rsWritten ev <;> cases he : eWritten ev <;> cases hd : dWritten ev <;> simp [List.filterMap_append, hr, he, hd]

end Sys2Proof.Machine
end

