-- ==== Sys2Proof/Tests/Slice0.lean ====
section
/-! SUPPORT. Tests: the spec's own vectors (spec/95) and words written out from its bit patterns (R102), the
WellFormed smoke tests, and a witness for the hypotheses of every statement. Times count from the accepting edge,
one tick after reset. -/

namespace Sys2Proof.Tests

set_option Elab.async false

open Sys2Proof.Machine

/-! ## Small states -/

/-- REF with no gap stretched and a clock period of 1 ns, so that traces have the earliest times of spec/95. -/
def quiet : Cfg := { Cfg.reference with slack := some 0, tickNs := 1 }

/-- E unbound (spec/95, P6). -/
def unbound : Cfg := { quiet with pinsBound := 0b111101#6 }

/-- Right after reset, with a word on the port. -/
def fresh (w : Word) : State := { State.reset with cfg := quiet, platformCfg := quiet, cmdValid := true, cmdWord := w }

/-- An initialized engine, with a word on the port. -/
def ready (w : Word) : State := { fresh w with initialized := true }

/-- One step; a stop leaves the state. -/
def after (s : State) : State :=
  match step s with
  | .next t => t
  | .fault _ => s
  | .refused _ => s

/-- After INIT, with a word on the port. -/
def inited (w : Word) : State := (after (fresh 0x1000#16)).present w

/-- A polling host in the middle of SENDN 3: what is left of the expansion starts at `upc`. -/
def middle (upc : Nat) (e : Bool) : State :=
  { fresh 0x4041#16 with
    busy := true, cmdl := 0x6003#16, exp := sendnBody quiet 3#4 ++ [.complete .ok], upc := upc, e := e, hostWait := .poll }

/-- A controller whose supply came up 15 ms before the trace begins, with no address rule of its own. -/
def lcd : Controller := ⟨none, -15000000⟩

/-- One whose supply came up with the trace. -/
def lcdJustUp : Controller := ⟨none, 0⟩

/-! ## WellFormed (R110) -/

theorem test_wellFormed_refuses_row_16 : (AsmLine.setcur 16 0).wellFormed = false := by decide
theorem test_wellFormed_refuses_column_256 : (AsmLine.setcur 0 256).wellFormed = false := by decide
theorem test_wellFormed_takes_row_15 : (AsmLine.setcur 15 255).wellFormed = true := by decide
theorem test_wellFormed_refuses_char_256 : (AsmLine.putc 256).wellFormed = false := by decide
theorem test_wellFormed_refuses_value_256 : (AsmLine.sendb 256 true).wellFormed = false := by decide
theorem test_wellFormed_refuses_nibble_16 : (AsmLine.sendn 16).wellFormed = false := by decide
theorem test_wellFormed_refuses_text_256 : (AsmLine.puts [72, 256]).wellFormed = false := by decide
theorem test_wellFormed_refuses_sendi_256 : (AsmLine.sendi 256).wellFormed = false := by decide
theorem test_wellFormed_refuses_sendd_256 : (AsmLine.sendd 256).wellFormed = false := by decide

/-! ## Decoding: words written out from the bit patterns of R102 -/

theorem test_decode_init : decode 0b0001000000000000#16 = .ok .init := by decide
theorem test_decode_clear : decode 0b0010000000000000#16 = .ok .clear := by decide
theorem test_decode_setcur : decode 0b0011000100100111#16 = .ok (.setcur 1#4 0x27#8) := by decide
theorem test_decode_putc : decode 0b0100000001000001#16 = .ok (.putc 0x41#8) := by decide
theorem test_decode_sendb_data : decode 0b0101000101000001#16 = .ok (.sendb true 0x41#8) := by decide
theorem test_decode_sendb_cmd : decode 0b0101000000101000#16 = .ok (.sendb false 0x28#8) := by decide
theorem test_decode_sendn_ignores_7_4 : decode 0b0110000011110011#16 = .ok (.sendn 3#4) := by decide
theorem test_decode_zero_illegal : decode 0#16 = .error .reservedOpcode := by decide
theorem test_decode_op15_illegal : decode 0xFFFF#16 = .error .reservedOpcode := by decide
theorem test_decode_reserved_bits : decode 0x1001#16 = .error .reservedBits ∧ decode 0x2100#16 = .error .reservedBits ∧
    decode 0x41FF#16 = .error .reservedBits ∧ decode 0x5E00#16 = .error .reservedBits ∧
    decode 0x6103#16 = .error .reservedBits := by decide
theorem test_table_word : decodeTableWord 16 0x3127 = some (.setcur 1#4 0x27#8) ∧ decodeTableWord 16 0x7000 = none := by
  decide

/-- The words of R110's table. -/
theorem test_encode : encode .init = 0x1000#16 ∧ encode .clear = 0x2000#16 ∧ encode (.setcur 1#4 0x0F#8) = 0x310F#16 ∧
    encode (.putc 0x48#8) = 0x4048#16 ∧ encode (.sendb true 0x41#8) = 0x5141#16 ∧ encode (.sendn 4#4) = 0x6004#16 := by
  decide

/-! ## Operands (spec/95, 2.2 and 2.5) -/

theorem test_mask_nibble : maskNibble 0x13 = 0x3#4 ∧ maskNibble 0xFF = 0xF#4 := by decide
theorem test_setcur_bytes : setDdramByte 1#4 0x3F#8 = 0xFF#8 ∧ setDdramByte 1#4 0x40#8 = 0x80#8 ∧
    setDdramByte 0#4 0x80#8 = 0x80#8 ∧ setDdramByte 1#4 0xFF#8 = 0xBF#8 := by decide
theorem test_setcur_bytes_visible : setDdramByte 0#4 0x27#8 = 0xA7#8 ∧ setDdramByte 1#4 0x0F#8 = 0xCF#8 := by decide
theorem test_hold_long : holdAfter quiet 0x03#8 false = 1640000 ∧ holdAfter quiet 0x01#8 true = 50000 ∧
    holdAfter quiet 0x04#8 false = 50000 := by decide

/-! ## Commands: one step each -/

/-- spec/95, 2.2: SENDN 3 from reset. -/
theorem test_sendn_trace : (after (fresh 0x6003#16)).trace =
    [(1, .accept 0x6003#16), (1, .pin (.d 0b0011#4)), (1001, .pin (.e true)), (2001, .pin (.e false)), (3001, .done .ok)] := by
  decide +kernel
theorem test_sendn_status : (after (fresh 0x6003#16)).status = 0x44#8 := by decide

/-- spec/95, 2.3: PUTC 'H'. -/
theorem test_putc_trace : (after (ready 0x4048#16)).trace =
    [(1, .accept 0x4048#16), (1, .pin (.rs true)), (1, .pin (.d 0b0100#4)), (1001, .pin (.e true)), (2001, .pin (.e false)),
     (3001, .pin (.d 0b1000#4)), (4001, .pin (.e true)), (5001, .pin (.e false)), (56001, .done .ok)] := by decide +kernel
theorem test_putc_before_init : (after (fresh 0x4041#16)).status = 0x5C#8 := by decide

theorem test_clear_time : (after (ready 0x2000#16)).now = 1646001 ∧ (after (ready 0x2000#16)).status = 0x46#8 := by decide +kernel
theorem test_clear_pins : (after (ready 0x2000#16)).rs = false ∧ (after (ready 0x2000#16)).d = 0x1#4 := by decide

theorem test_setcur_nibbles : eventsOf (after (ready 0x31FF#16)).trace =
    [.accept 0x31FF#16, .pin (.rs false), .pin (.d 0xB#4), .pin (.e true), .pin (.e false), .pin (.d 0xF#4), .pin (.e true),
     .pin (.e false), .done .ok] := by decide
theorem test_setcur_row_2 : (after (fresh 0x3200#16)).status = 0x4C#8 ∧ (after (ready 0x3F00#16)).status = 0x4E#8 := by decide

theorem test_sendb_long_time : (after (ready 0x5003#16)).now = 1646001 ∧ (after (ready 0x5103#16)).now = 56001 := by decide +kernel
theorem test_sendb_rs : (after (ready 0x51FF#16)).rs = true ∧ (after (ready 0x50A5#16)).rs = false := by decide

/-- spec/95, P1. -/
theorem test_init_end : (after (fresh 0x1000#16)).now = 6176001 ∧ (after (fresh 0x1000#16)).status = 0x46#8 ∧
    (after (fresh 0x1000#16)).trace.length = 43 := by decide +kernel
theorem test_init_pins : eventsOf (after (fresh 0x1000#16)).trace = [.accept 0x1000#16] ++ initEvents ++ [.done .ok] := by
  decide +kernel

theorem test_illegal_word : (after (ready 0x7000#16)).status = 0x56#8 ∧ (after (fresh 0x6103#16)).status = 0x54#8 := by decide
theorem test_config_error_first : (after { fresh 0x3200#16 with cfg := unbound }).status = 0x24#8 := by decide
theorem test_status_after_reset : State.reset.status = 0x40#8 := by decide

/-- The host's question: the very first step after reset runs the presented word. -/
theorem test_first_step : (after (State.reset.withFetchWord 16 0x4041)).status = 0x5C#8 ∧
    (after (State.reset.withFetchWord 16 0x6003)).d = 3#4 := by decide

/-- R38: a polling host sees one primitive at a time; the hold before E falls is pending. -/
theorem test_poll_emit : (after (middle 2 false)).e = true ∧ (after (middle 2 false)).upc = 3 := by decide
theorem test_poll_hold : (after (middle 3 true)).hold = 1000 ∧ (after (middle 3 true)).e = true := by decide +kernel
/-- R242: reset in the middle of a pulse. -/
theorem test_reset_cuts_pulse : (after { middle 4 true with rst := true, hostDelay := 7 }).e = false ∧
    (after { middle 4 true with rst := true, hostDelay := 7 }).trace = [(7, .reset quiet)] := by decide +kernel

/-- R16: a time need not be a whole number of ns. -/
theorem test_fraction_of_ns : (after { fresh 0x6003#16 with hostDelay := 1 / 2 }).trace.head? = some (3 / 2, .accept 0x6003#16) := by
  decide +kernel

/-! ## Observer -/

/-- spec/95, P1: the observer after INIT. -/
theorem test_observer_after_init : ((inited 0#16).controller lcd).mode = ⟨some 0x28#8, some 0x0C#8, some 0x06#8⟩ ∧
    ((inited 0#16).controller lcd).ac = some 0#7 ∧ ((inited 0#16).controller lcd).ddram.read 0x67 = some 0x20#8 := by
  decide +kernel
/-- R245: the same INIT, 1 ns after the controller's supply came up: OK, and the controller unknown. -/
theorem test_observer_too_early : (after (fresh 0x1000#16)).result = .ok ∧
    (after (fresh 0x1000#16)).controller lcdJustUp = View.unknown := by decide +kernel
/-- spec/95, P5: SENDN leaves half a byte. -/
theorem test_observer_sendn_phase : ((after (inited 0x6004#16)).controller lcd).phase = some .lo ∧
    ((after (inited 0x6004#16)).controller lcd).hi = some 4#4 := by decide +kernel
/-- R86: a pulse shorter than `T_PW` loses the reading, whatever the view was. -/
theorem test_observer_short_pulse : (Tracker.onEvent lcd
      { Tracker.start quiet with plan := [.hold 1000, .emit (.e false)], lastAt := 10, e := true } (1009, .pin (.e false))).reading =
    View.unknown := by decide +kernel
/-- spec/95, P6: a rejected INIT leaves the observer UNSYNC. -/
theorem test_observer_config_error : ((after { fresh 0x1000#16 with cfg := unbound }).controller lcd).sync = some .unsync := by
  decide
/-- R85 at the ends of its two ranges. -/
theorem test_next_ac : nextAc none (some 0x06#8) 0x26#7 = some 0x27#7 ∧ nextAc none (some 0x06#8) 0x27#7 = none ∧
    nextAc none (some 0x06#8) 0x3F#7 = none ∧ nextAc none (some 0x06#8) 0x40#7 = some 0x41#7 ∧
    nextAc none (some 0x06#8) 0x66#7 = some 0x67#7 ∧ nextAc none (some 0x06#8) 0x67#7 = none := by decide

/-! ## Assembler -/

/-- R110, R111: lines of the spec's programs. -/
theorem test_assemble_puts : assembleText [['P', 'U', 'T', 'S', ' ', '"', 'H', 'i', '"', ' ', ';', ' ', 'c']] =
    some [0x4048#16, 0x4069#16] := by decide
theorem test_assemble_setcur : assembleText [['S', 'E', 'T', 'C', 'U', 'R', ' ', '1', ',', ' ', '0', 'x', '2', '7']] =
    some [0x3127#16] := by decide
theorem test_assemble_sendb : assembleText [['S', 'E', 'N', 'D', 'B', ' ', '0', 'x', '2', '8', ',', ' ', 'c', 'm', 'd']] =
    some [0x5028#16] := by decide
theorem test_assemble_refuses : assembleText [['S', 'E', 'N', 'D', 'N', ' ', '1', '6']] = none := by decide

/-! ## Witnesses: a state and operands that meet each statement's hypotheses -/

/-- Presenting a word changes neither the trace, the pins, the time nor the configuration. -/
theorem present_traceAgrees (s : State) (w : Word) (h : s.TraceAgrees) : (s.present w).TraceAgrees :=
  ⟨h.times, h.past, h.levels, h.config⟩

theorem present_controller (s : State) (w : Word) (ctl : Controller) : (s.present w).controller ctl = s.controller ctl := rfl

theorem withStream_traceAgrees (s : State) (rs : List Request) (h : s.TraceAgrees) : State.TraceAgrees { s with stream := rs } :=
  ⟨h.times, h.past, h.levels, h.config⟩

theorem withStream_controller (s : State) (rs : List Request) (ctl : Controller) :
    State.controller ctl { s with stream := rs } = s.controller ctl := rfl

theorem present_legal (s : State) (w : Word) (h : s.exp = [] ∧ s.upc = 0 ∧ s.hold = 0 ∧ s.e = false) :
    (s.present w).Legal :=
  ⟨fun _ => h, fun h => by simp at h, fun h => by simp at h, fun h => by simp at h⟩

theorem inited_legal (w : Word) : (inited w).Legal := present_legal _ w (by decide)

theorem afterInit_traceAgrees : (after (fresh 0x1000#16)).TraceAgrees :=
  ⟨by unfold chronological; decide +kernel, by decide +kernel, by decide +kernel, by decide +kernel⟩

theorem inited_traceAgrees (w : Word) : (inited w).TraceAgrees := present_traceAgrees _ w afterInit_traceAgrees

theorem middle_legal : (middle 2 false).Legal :=
  ⟨fun h => absurd h (by decide), fun _ => by decide, fun _ h => absurd h (by decide), fun _ => .inl ⟨.sendn 3#4, by decide, by decide⟩⟩

theorem middle_pulseContract : State.PulseContract { middle 0 false with trace := [] } :=
  ⟨quiet, PulseClocks.start quiet, by decide, by decide, by decide +kernel⟩

theorem test_witness_rst : State.rst { middle 4 true with rst := true } = true := by decide

theorem test_witness_decode : decode 0x60F3#16 = .ok (.sendn 3#4) ∧ decode 0x3000#16 = .ok (.setcur 0#4 0#8) := by decide

theorem test_witness_wellFormed : (Instr.setcur 15#4 0xFF#8).wellFormed = true := by decide

theorem test_witness_puts : ∀ c ∈ [0, 255], c ≤ 255 := by decide

theorem test_witness_assembler_bounds : assembleLine (.setcur 15 255) = some [0x3FFF#16] ∧ assembleLine (.setcur 16 0) = none ∧
    assembleLine (.sendn 15) = some [0x600F#16] ∧ assembleLine (.puts [256]) = none := by decide

theorem test_witness_hold_clauses : (0x01#8 : Byte).toNat ∈ [1, 2, 3] ∧ (0x03#8 : Byte).toNat ∈ [1, 2, 3] ∧
    (0x00#8 : Byte).toNat ∉ [1, 2, 3] ∧ (0x04#8 : Byte).toNat ∉ [1, 2, 3] := by decide

theorem test_witness_holdTicks : quiet.wellFormed = true := by decide

/-- A byte at the clause's lower bound; AC is free, UNKNOWN too. -/
theorem test_witness_modeKept : View.initial.ac = none ∧ 0x80 ≤ (0x80#8 : Byte).toNat := by decide

/-- INIT, SENDN. -/
theorem test_witness_completes : (fresh 0#16).hostWait = .untilReady ∧ (fresh 0#16).cfgOk = true := by decide

/-- CLEAR, SETCUR, PUTC, SENDB. -/
theorem test_witness_completes_initialized : (ready 0#16).hostWait = .untilReady ∧ (ready 0#16).cfgOk = true ∧
    (ready 0#16).initialized = true ∧ ((1#4 : Nibble) = 0#4 ∨ (1#4 : Nibble) = 1#4) := by decide

theorem test_witness_minimumTime : (ready 0#16).hostWait = .untilReady ∧ checkOf (ready 0#16) (.sendb false 3#8) = .ok ∧
    (ready 0#16).cfg.slack = some 0 := by decide

theorem test_witness_polling : State.hostWait { fresh 0#16 with hostWait := .poll } = .poll ∧
    checkOf { fresh 0#16 with hostWait := .poll } .init = .ok := by decide

theorem test_witness_configError : State.Accepting 0x1000#16 { fresh 0x1000#16 with cfg := unbound } ∧
    State.hostWait { fresh 0x1000#16 with cfg := unbound } = .untilReady ∧
    State.cfgOk { fresh 0x1000#16 with cfg := unbound } = false := ⟨⟨rfl, rfl, rfl, rfl⟩, by decide, by decide⟩

theorem test_witness_illegal : (fresh 0#16).Accepting 0#16 ∧ (fresh 0#16).hostWait = .untilReady ∧
    (fresh 0#16).cfgOk = true ∧ (fresh 0#16).hold = 0 ∧ (0#16 : Word).toNat / 0x1000 = 0 :=
  ⟨⟨rfl, rfl, rfl, rfl⟩, by decide, by decide, by decide, by decide⟩

/-- The other clauses of an illegal word, each at a boundary, and the legal words beside them. -/
theorem test_witness_illegal_clauses : 7 ≤ (0x7000#16 : Word).toNat / 0x1000 ∧ (0x1001#16 : Word).toNat % 0x1000 ≠ 0 ∧
    (0x4100#16 : Word).toNat / 0x100 % 0x10 ≠ 0 ∧ (0x5200#16 : Word).toNat / 0x200 % 0x8 ≠ 0 ∧
    (0x51FF#16 : Word).toNat / 0x200 % 0x8 = 0 ∧ (0x60FF#16 : Word).toNat / 0x100 % 0x10 = 0 := by decide

theorem test_witness_invalidArgument : (fresh 0#16).hostWait = .untilReady ∧ (fresh 0#16).cfgOk = true ∧ (fresh 0#16).hold = 0 ∧
    (2#4 : Nibble) ≠ 0#4 ∧ (2#4 : Nibble) ≠ 1#4 ∧ (15#4 : Nibble) ≠ 0#4 ∧ (15#4 : Nibble) ≠ 1#4 := by decide

theorem test_witness_notInitialized : (fresh 0#16).hostWait = .untilReady ∧ (fresh 0#16).cfgOk = true ∧
    (fresh 0#16).initialized = false := by decide

theorem test_witness_checked : (fresh 0x4041#16).Accepting 0x4041#16 ∧ (fresh 0x4041#16).hostWait = .untilReady ∧
    (fresh 0x4041#16).hold = 0 ∧ checkWord 0x4041#16 (fresh 0x4041#16).initialized (fresh 0x4041#16).cfgOk ≠ .ok :=
  ⟨⟨rfl, rfl, rfl, rfl⟩, by decide, by decide, by decide⟩

theorem test_witness_stepRuns : (ready 0x4048#16).Accepting 0x4048#16 ∧ decode 0x4048#16 = .ok (.putc 0x48#8) :=
  ⟨⟨rfl, rfl, rfl, rfl⟩, by decide⟩

theorem test_witness_idle : State.reset.rst = false ∧ State.reset.busy = false ∧ State.reset.cmdValid = false := by decide

theorem test_witness_pendingHold : State.rst { middle 2 false with hold := 5 } = false ∧
    State.busy { middle 2 false with hold := 5 } = true ∧ State.hostWait { middle 2 false with hold := 5 } = .poll ∧
    State.hold { middle 2 false with hold := 5 } ≠ 0 := by decide

/-- Emit, Hold and Complete of SENDN's expansion, and SetFlag of INIT's. -/
theorem test_witness_primitives : (middle 0 false).rst = false ∧ (middle 0 false).busy = true ∧
    (middle 0 false).hostWait = .poll ∧ (middle 0 false).hold = 0 ∧
    (middle 0 false).exp[(middle 0 false).upc]? = some (.emit (.d 3#4)) ∧
    (middle 1 false).exp[(middle 1 false).upc]? = some (.hold 1000) ∧
    (middle 6 false).exp[(middle 6 false).upc]? = some (.complete .ok) := by decide
theorem test_witness_setFlag : (initBody quiet ++ [.complete .ok])[85]? = some (.setFlag .initialized true) := by decide

theorem test_witness_busyStep : (middle 2 false).rst = false ∧ (middle 2 false).busy = true ∧
    ∃ t, step (middle 2 false) = .next t := ⟨by decide, by decide, _, rfl⟩

theorem test_witness_idleStep : (fresh 0x1000#16).busy = false ∧ (fresh 0x1000#16).cmdValid = true ∧
    ∃ t, step (fresh 0x1000#16) = .next t := ⟨by decide, by decide, _, rfl⟩

/-- A step that changes INITIALIZED: INIT from reset. -/
theorem test_witness_initialized : (fresh 0x1000#16).Legal ∧ (after (fresh 0x1000#16)).initialized ≠ (fresh 0x1000#16).initialized :=
  ⟨⟨fun _ => ⟨rfl, rfl, rfl, rfl⟩, fun h => by exact absurd h (by decide), fun h => by exact absurd h (by decide),
    fun h => by exact absurd h (by decide)⟩, by decide⟩

theorem test_witness_legal_busy : (middle 2 false).Legal ∧ (middle 2 false).busy = true ∧ (middle 2 false).rst = false :=
  ⟨middle_legal, by decide, by decide⟩

theorem test_witness_traceAgrees : (inited 0x4048#16).TraceAgrees ∧ ∃ t, step (inited 0x4048#16) = .next t :=
  ⟨inited_traceAgrees _, _, rfl⟩

theorem test_witness_pulses : (inited 0x4048#16).Legal ∧ pulseLevel (inited 0x4048#16).trace = some (inited 0x4048#16).e :=
  ⟨inited_legal _, by decide +kernel⟩

theorem test_witness_pulseContract : (middle 0 false).Legal ∧ (middle 0 false).PulseContract :=
  ⟨⟨fun h => absurd h (by decide), fun _ => by decide, fun _ h => absurd h (by decide),
    fun _ => .inl ⟨.sendn 3#4, by decide, by decide⟩⟩, middle_pulseContract⟩

theorem test_witness_pollingAgrees : State.Accepting 0x6003#16 { fresh 0x6003#16 with hostWait := .poll } ∧
    State.hostWait { fresh 0x6003#16 with hostWait := .poll } = .poll := ⟨⟨rfl, rfl, rfl, rfl⟩, rfl⟩

/-- A stream of two characters. -/
theorem test_witness_stream : let s := { ready 0x4048#16 with stream := [⟨0, 0x4069#16⟩] }
    s.rst = false ∧ s.busy = false ∧ s.hostWait = .untilReady ∧ s.cfgOk = true ∧ s.initialized = true ∧ s.cmdValid = true ∧
    s.cmdWord :: s.stream.map Request.word = [0x48#8, 0x69#8].map (fun c => encode (.putc c)) := by decide

/-- Character bytes at the ends of R85's ranges. -/
theorem test_witness_character : ∀ a ∈ [0x26#7, 0x27#7, 0x40#7, 0x66#7, 0x67#7],
    View.ac { View.initial with ac := some a, mode := ⟨none, none, some 0x06#8⟩ } = some a := by decide
theorem test_witness_character_unknown : View.initial.ac = none ∧
    View.ac { View.initial with ac := some 0x28#7 } = some 0x28#7 ∧ View.initial.mode.entry ≠ some 0x06#8 := by decide

theorem test_witness_initObserved : (inited 0x1000#16).TraceAgrees ∧ (inited 0x1000#16).Accepting 0x1000#16 ∧
    (inited 0x1000#16).hostWait = .untilReady ∧ (inited 0x1000#16).cfgOk = true ∧ (inited 0x1000#16).cfg.conforming = true ∧
    (inited 0x1000#16).PowerOnRespected lcd.supplyUp :=
  ⟨inited_traceAgrees _, ⟨rfl, rfl, rfl, rfl⟩, by decide, by decide, by decide,
    by unfold State.PowerOnRespected; decide +kernel⟩

/-- The first clause's premises right after the supply came up, at the wait's last missing ns, and the boundary where the
duty is met; the second's with the controller unknown. -/
theorem test_witness_tooEarly : (fresh 0x1000#16).hostWait = .untilReady ∧ (fresh 0x1000#16).TraceAgrees ∧
    (fresh 0x1000#16).Accepting 0x1000#16 ∧
    (fresh 0x1000#16).cfgOk = true ∧ ¬ (fresh 0x1000#16).PowerOnRespected lcdJustUp.supplyUp ∧
    ¬ (fresh 0x1000#16).PowerOnRespected (-14999998) ∧ (fresh 0x1000#16).PowerOnRespected (-14999999) ∧
    (inited 0x4041#16).hostWait = .untilReady ∧ (inited 0x4041#16).Accepting 0x4041#16 ∧ decode 0x4041#16 ≠ .ok .init ∧
    (inited 0x4041#16).controller lcdJustUp = View.unknown :=
  ⟨rfl, ⟨List.Pairwise.nil, by decide, by decide, by decide⟩, ⟨rfl, rfl, rfl, rfl⟩, by decide,
    by unfold State.PowerOnRespected; decide +kernel, by unfold State.PowerOnRespected; decide +kernel, by unfold State.PowerOnRespected; decide +kernel, by decide +kernel,
    ⟨rfl, rfl, rfl, rfl⟩, by decide,
    (present_controller _ _ _).trans test_observer_too_early.2⟩

theorem inited_synchronised (w : Word) : ((inited w).controller lcd).sync = some .fourBit ∧
    ((inited w).controller lcd).phase = some .hi := by
  have h : ((after (fresh 0x1000#16)).controller lcd).sync = some .fourBit ∧
      ((after (fresh 0x1000#16)).controller lcd).phase = some .hi := by decide +kernel
  rw [inited, present_controller]
  exact h

theorem test_witness_byteObserved : (inited 0x4048#16).TraceAgrees ∧ (inited 0x4048#16).Accepting 0x4048#16 ∧
    (inited 0x4048#16).hostWait = .untilReady ∧ decode 0x4048#16 = .ok (.putc 0x48#8) ∧
    byteOf (.putc 0x48#8) = some (true, 0x48#8) ∧ checkOf (inited 0x4048#16) (.putc 0x48#8) = .ok ∧
    ((inited 0x4048#16).controller lcd).sync = some .fourBit ∧ ((inited 0x4048#16).controller lcd).phase = some .hi :=
  ⟨inited_traceAgrees _, ⟨rfl, rfl, rfl, rfl⟩, by decide, by decide, by decide, by decide,
    (inited_synchronised _).1, (inited_synchronised _).2⟩

/-- After one SENDN the second clause's hypotheses hold: phase LO, a known high nibble, RS as it was. -/
theorem test_witness_sendnObserved : (inited 0x6004#16).Accepting (encode (.sendn 4#4)) ∧
    ((after (inited 0x6004#16)).controller lcd).phase = some .lo ∧
    ((after (inited 0x6004#16)).controller lcd).hi = some 4#4 ∧
    ((after (inited 0x6004#16)).controller lcd).rsHi = some (after (inited 0x6004#16)).rs :=
  ⟨⟨rfl, rfl, rfl, rfl⟩, by decide +kernel, by decide +kernel, by decide +kernel⟩

/-- A controller that has half a byte (the nibble 4, RS = 0), with a word on the port. -/
def half (w : Word) : State := (after (inited 0x6004#16)).present w

theorem afterHalf_traceAgrees : (after (inited 0x6004#16)).TraceAgrees :=
  ⟨by unfold chronological; decide +kernel, by decide +kernel, by decide +kernel, by decide +kernel⟩

/-- Phase LO: a CLEAR with the same RS, a PUTC with the other one. -/
theorem test_witness_byteMisframed : (∀ w, (half w).TraceAgrees ∧ (half w).Accepting w) ∧
    (half 0x2000#16).hostWait = .untilReady ∧ (half 0x4041#16).hostWait = .untilReady ∧
    decode 0x2000#16 = .ok .clear ∧ byteOf .clear = some (false, 0x01#8) ∧ checkOf (half 0x2000#16) .clear = .ok ∧
    decode 0x4041#16 = .ok (.putc 0x41#8) ∧ checkOf (half 0x4041#16) (.putc 0x41#8) = .ok ∧
    (half 0x2000#16).controller lcd = (half 0x4041#16).controller lcd ∧
    ((half 0x2000#16).controller lcd).sync = some .fourBit ∧ ((half 0x2000#16).controller lcd).phase = some .lo ∧
    ((half 0x2000#16).controller lcd).hi = some 4#4 ∧ ((half 0x2000#16).controller lcd).rsHi = some false :=
  ⟨fun w => ⟨present_traceAgrees _ w afterHalf_traceAgrees, ⟨rfl, rfl, rfl, rfl⟩⟩, by decide +kernel, by decide +kernel,
    by decide, by decide, by decide +kernel, by decide, by decide +kernel, rfl, by decide +kernel, by decide +kernel,
    by decide +kernel, by decide +kernel⟩

/-- spec/95, P5, from its SENDN on: PUTC 'A' after 'A' and SENDN 4 writes 0x44, and phase LO stays (with AC 0 at the start, where P5
has 5). -/
theorem test_observer_misframed :
    let s := (after ((after ((after (inited 0x5141#16)).present 0x6004#16)).present 0x4041#16)).controller lcd
    s.ddram.read 0x01 = some 0x44#8 ∧ s.ac = some 2#7 ∧ s.phase = some .lo := by decide +kernel

/-- Two CLEARs, the second 9.5 ns after the first. -/
def clearTwice : State := { inited 0x2000#16 with stream := [⟨19 / 2, 0x2000#16⟩] }

theorem test_witness_twoClears : clearTwice.Accepting 0x2000#16 ∧ clearTwice.stream = [⟨19 / 2, 0x2000#16⟩] ∧
    clearTwice.TraceAgrees ∧ clearTwice.hostWait = .untilReady ∧ clearTwice.cfgOk = true ∧ clearTwice.initialized = true ∧
    (clearTwice.controller lcd).sync = some .fourBit ∧ (clearTwice.controller lcd).phase = some .hi := by
  refine ⟨⟨by decide, by decide, by decide, by decide⟩, rfl,
    withStream_traceAgrees _ _ (inited_traceAgrees _), by decide, by decide, by decide, ?_⟩
  rw [clearTwice, withStream_controller]
  exact inited_synchronised _

/-- R8, C2: each of the last two minima counts, at its boundary. -/
theorem test_conforming_boundaries : quiet.conforming = true ∧ Cfg.conforming { quiet with tickNs := 0 } = false ∧
    Cfg.conforming { quiet with lineWidth := 0 } = false ∧ Cfg.conforming { quiet with lineWidth := 1 } = true := by
  decide +kernel

theorem test_witness_nonConforming : State.TraceAgrees { State.reset with cfg := { quiet with tPw := 0 } } ∧
    Cfg.conforming { quiet with tPw := 0 } = false :=
  ⟨⟨by unfold chronological; decide, by decide, by decide, by decide⟩, by decide⟩

end Sys2Proof.Tests
end

section
/-! The trace agrees with the machine after every step; the configuration, the pins and the observer's reading at a
reset edge. -/

namespace Sys2Proof.Machine

variable {s t : State}

/-! ### The trace in agreement -/

/-- A change that records nothing, moves no pin and lets no time run back keeps the agreement. -/
theorem State.TraceAgrees.of_same_trace (h : s.TraceAgrees) (htr : t.trace = s.trace) (hnow : s.now ≤ t.now)
    (hpins : SamePins s t) (hcfg : t.cfg = s.cfg) : t.TraceAgrees where
  times := htr ▸ h.times
  past := fun ev hev => (h.past ev (htr ▸ hev)).trans hnow
  levels := by rw [htr, h.levels, hpins.rs, hpins.e, hpins.d]
  config := by rw [htr, hcfg, h.config]

theorem levelsOf_append_singleton (tr : Trace) (n : Time) (ev : Event) :
    levelsOf (tr ++ [(n, ev)]) = (levelsOf tr).after ev := by
  simp [levelsOf, eventsOf]

theorem traceCfg_append_singleton (c : Cfg) (tr : Trace) (n : Time) (ev : Event) :
    traceCfg c (tr ++ [(n, ev)]) = cfgAfter (traceCfg c tr) ev := by
  simp [traceCfg, eventsOf]

/-- Recording an event at the present keeps the agreement, where pins and configuration follow the event (R16). -/
theorem State.TraceAgrees.of_appended_event {ev : Event} (h : s.TraceAgrees) (htr : t.trace = s.trace ++ [(t.now, ev)])
    (hnow : s.now ≤ t.now) (hpins : (⟨t.rs, t.e, t.d⟩ : Levels) = Levels.after ⟨s.rs, s.e, s.d⟩ ev)
    (hcfg : t.cfg = cfgAfter s.cfg ev) : t.TraceAgrees := by
  obtain ⟨htimes, hpast⟩ := chronological_append (ev := ev) h.times h.past hnow
  refine ⟨htr ▸ htimes, htr ▸ hpast, ?_, ?_⟩
  · rw [htr, levelsOf_append_singleton, h.levels, hpins]
  · rw [htr, traceCfg_append_singleton, hcfg]
    cases ev with
    | reset c => rfl
    | accept w => exact h.config
    | pin p => exact h.config
    | done r => exact h.config

theorem State.elapse_traceAgrees (h : s.TraceAgrees) : s.elapse.TraceAgrees :=
  h.of_same_trace rfl le_self_add ⟨rfl, rfl, rfl⟩ rfl

theorem State.load_traceAgrees (x : List Prim) (h : s.TraceAgrees) : (s.load x).TraceAgrees :=
  h.of_same_trace rfl le_rfl ⟨rfl, rfl, rfl⟩ rfl

theorem State.setFlag_traceAgrees (f : Flag) (b : Bool) (h : s.TraceAgrees) : (s.setFlag f b).TraceAgrees := by
  cases f
  exact h.of_same_trace rfl le_rfl ⟨rfl, rfl, rfl⟩ rfl

/-- A pin's new level is the one its event writes (R130). -/
theorem State.emit_levels (s : State) (p : PinWrite) :
    (⟨(s.emit p).rs, (s.emit p).e, (s.emit p).d⟩ : Levels) = Levels.after ⟨s.rs, s.e, s.d⟩ (.pin p) := by
  cases p <;> rfl

theorem State.perform_traceAgrees (p : Prim) (h : s.TraceAgrees) : (s.perform p).TraceAgrees := by
  cases p with
  | emit w =>
    exact h.of_appended_event (by simp [State.perform]) (by simp [State.perform]) (s.emit_levels w) (by simp [cfgAfter])
  | hold d => exact h.of_same_trace rfl le_rfl ⟨rfl, rfl, rfl⟩ rfl
  | setFlag f b => exact (State.setFlag_traceAgrees f b h).of_same_trace rfl le_rfl ⟨rfl, rfl, rfl⟩ rfl
  | complete r => exact h.of_appended_event (ev := .done r) rfl le_self_add rfl rfl

theorem State.latch_traceAgrees (h : s.TraceAgrees) : s.latch.TraceAgrees :=
  h.of_appended_event (ev := .accept s.cmdWord) (by simp) (by simp) (by simp [Levels.after]) (by simp [cfgAfter])

theorem State.applyReset_traceAgrees (h : s.TraceAgrees) : s.applyReset.TraceAgrees :=
  h.of_appended_event (ev := .reset s.platformCfg) rfl le_self_add rfl rfl

/-- Settles O44: every operation a step is made of keeps the agreement. -/
theorem stepKeepsTheTraceInAgreement : Obligations.StepKeepsTheTraceInAgreement := by
  unfold Obligations.StepKeepsTheTraceInAgreement
  exact step_keeps State.TraceAgrees (fun _ => State.elapse_traceAgrees) (fun p _ => State.perform_traceAgrees p)
    (fun x _ => State.load_traceAgrees x) (fun f b _ => State.setFlag_traceAgrees f b)
    (fun _ => State.latch_traceAgrees) (fun _ => State.applyReset_traceAgrees)

/-! ### The configuration between resets -/

theorem State.continueCommand_keeps (P : State → Prop) (helapse : ∀ s, P s → P s.elapse)
    (hperform : ∀ p s, P s → P (s.perform p)) (hs : P s) (h : s.continueCommand = .next t) : P t := by
  unfold State.continueCommand at h
  split at h
  · rcases s.engineStep_cases with ⟨-, he⟩ | ⟨-, p, -, he⟩ | ⟨-, -, he⟩ <;> rw [he] at h <;> cases h
    · exact helapse _ hs
    · exact hperform _ _ hs
  · exact State.runPrims_keeps P helapse hperform _ s t hs h

/-- What every operation but a reset keeps, every step with `rst` = 0 keeps. -/
theorem step_keeps_of_rst_low (P : State → Prop) (helapse : ∀ s, P s → P s.elapse)
    (hperform : ∀ p s, P s → P (s.perform p)) (hload : ∀ x s, P s → P (s.load x))
    (hflag : ∀ f b s, P s → P (s.setFlag f b)) (hlatch : ∀ s, P s → P s.latch) (hrst : s.rst = false) (hs : P s)
    (h : step s = .next t) : P t := by
  rcases step_cases s with ⟨hr, -⟩ | ⟨-, -, he⟩ | ⟨-, -, -, i, -, he⟩ | ⟨-, -, -, -, he⟩ | ⟨-, -, -, he⟩
  · simp [hrst] at hr
  · exact State.continueCommand_keeps P helapse hperform hs (he ▸ h)
  · exact exec_keeps P helapse hperform hload hflag i _ t (hlatch _ hs) (he ▸ h)
  · exact State.proceed_keeps P helapse hperform _ t (hload _ _ (hlatch _ hs)) (he ▸ h)
  · obtain rfl : s = t := by simpa [he] using h
    exact hs

/-- A step with `rst` = 1 is the reset edge (R240). -/
theorem step_of_rst_high (hrst : s.rst = true) : step s = .next s.applyReset := by
  simp [step, hrst]

theorem step_cfg_of_rst_low (hrst : s.rst = false) (h : step s = .next t) : t.cfg = s.cfg :=
  step_keeps_of_rst_low (fun u => u.cfg = s.cfg) (fun _ hu => hu) (fun p u hu => (u.perform_cfg p).trans hu)
    (fun _ _ hu => hu) (fun f _ _ hu => by cases f; exact hu) (fun u hu => u.latch_cfg.trans hu) hrst rfl h

/-- Settles O42: no operation but a reset writes `cfg`. -/
theorem configurationIsFixedBetweenResets : Obligations.ConfigurationIsFixedBetweenResets := by
  unfold Obligations.ConfigurationIsFixedBetweenResets
  intro s t h
  cases hrst : s.rst with
  | false => simpa using step_cfg_of_rst_low hrst h
  | true =>
    obtain rfl : s.applyReset = t := by simpa [step_of_rst_high hrst] using h
    simp

/-! ### Pin levels read off the trace -/

/-- The levels at a time no event lies beyond are those at the end of the trace. -/
theorem levelsAt_eq_levelsOf {tr : Trace} {n : Time} (h : ∀ ev ∈ tr, ev.1 ≤ n) : levelsAt tr n = levelsOf tr := by
  simp [levelsAt, levelsOf, foldl_levels, lastWritten_end _ _ tr n h, Levels.reset]

theorem levelsAt_append_later {tr evs : Trace} {x : Time} (h : ∀ ev ∈ evs, x < ev.1) :
    levelsAt (tr ++ evs) x = levelsAt tr x := by
  simp [levelsAt, lastWritten_append_later _ _ tr evs x h]

/-- Where the trace agrees, the levels R16 reads off it now are the pins. -/
theorem State.TraceAgrees.levelsAt_now (h : s.TraceAgrees) : levelsAt s.trace s.now = ⟨s.rs, s.e, s.d⟩ :=
  (levelsAt_eq_levelsOf h.past).trans h.levels

/-- Settles O45: the agreement after the step gives the levels now, and a step appends no event to the past. -/
theorem pinLevelsAreThoseOfTheTrace : Obligations.PinLevelsAreThoseOfTheTrace := by
  unfold Obligations.PinLevelsAreThoseOfTheTrace
  intro s t hs h
  have hlevels := (stepKeepsTheTraceInAgreement s t hs h).levelsAt_now
  simp only [levelsAt, Levels.mk.injEq] at hlevels
  obtain ⟨hrs, he, hd⟩ := hlevels
  obtain ⟨evs, htr, hlater, -⟩ := step_appends s t h
  refine ⟨hrs.symm, he.symm, hd.symm, fun x hx => ?_⟩
  rw [htr]
  exact levelsAt_append_later fun ev hev => hx.trans_le (hlater ev hev)

/-! ### The observer at a reset and under a non-conforming configuration -/

section Tracker

variable (k : Tracker)

@[simp] theorem Tracker.poison_cfg : k.poison.cfg = k.cfg := rfl

@[simp] theorem Tracker.pass_cfg (n : Time) : (k.pass n).cfg = k.cfg := rfl

@[simp] theorem Tracker.checkHolds_cfg (n : Time) : (k.checkHolds n).cfg = k.cfg := by
  unfold Tracker.checkHolds
  split <;> rfl

@[simp] theorem Tracker.latch_cfg (ctrl : CtrlNextAc) : (k.latch ctrl).cfg = k.cfg := by
  unfold Tracker.latch
  split <;> rfl

@[simp] theorem Tracker.onPin_cfg (ctrl : CtrlNextAc) (p : PinWrite) : (k.onPin ctrl p).cfg = k.cfg := by
  match p with
  | .rs _ | .d _ | .e true => rfl
  | .e false =>
    simp only [Tracker.onPin]
    split <;> simp

@[simp] theorem Tracker.onDone_cfg (r : ResultCode) : (k.onDone r).cfg = k.cfg := by
  unfold Tracker.onDone
  split <;> rfl

@[simp] theorem Tracker.onAccept_cfg (supplyUp : ℚ) (n : Time) (w : Word) : (k.onAccept supplyUp n w).cfg = k.cfg := by
  unfold Tracker.onAccept
  split
  · split
    · split <;> rfl
    · rfl
  · rfl

/-- A reset edge alone changes the configuration the observer holds (R9). -/
theorem Tracker.onEvent_cfg (ctl : Controller) (ev : Time × Event) : (k.onEvent ctl ev).cfg = cfgAfter k.cfg ev.2 := by
  obtain ⟨n, ev⟩ := ev
  cases ev with
  | accept w => simp [Tracker.onEvent, cfgAfter]
  | pin p => simp [Tracker.onEvent, cfgAfter]
  | done r => cases r <;> simp [Tracker.onEvent, cfgAfter]
  | reset c => rfl

theorem foldl_onEvent_cfg (ctl : Controller) (tr : Trace) :
    (tr.foldl (Tracker.onEvent ctl) k).cfg = traceCfg k.cfg tr := by
  induction tr generalizing k with
  | nil => rfl
  | cons ev tr ih => exact (ih _).trans (by rw [Tracker.onEvent_cfg]; rfl)

end Tracker

/-- The observer's configuration is the one in force at the end of the trace. -/
theorem track_cfg (ctl : Controller) (c : Cfg) (tr : Trace) : (track ctl c tr).cfg = traceCfg c tr :=
  foldl_onEvent_cfg (Tracker.start c) ctl tr

/-- Right after a reset edge the reading is lost (R86, R242). -/
theorem observe_append_reset (ctl : Controller) (c c' : Cfg) (tr : Trace) (n : Time) :
    observe ctl c (tr ++ [(n, .reset c')]) = View.unknown := by
  simp [observe, track, Tracker.onEvent, Tracker.onReset, Tracker.poison, Tracker.reading]

/-- A non-conforming configuration in force never gives a reading (R10, D28). -/
theorem observe_of_not_conforming (ctl : Controller) {c : Cfg} {tr : Trace} (h : (traceCfg c tr).conforming = false) :
    observe ctl c tr = View.unknown := by
  simp [observe, Tracker.reading, track_cfg, h]

/-- Settles O59: a reset edge ends the trace with its mark; the agreement puts `cfg` in force at the end of the trace. -/
theorem resetAndNonConformanceLoseTheReading : Obligations.ResetAndNonConformanceLoseTheReading := by
  unfold Obligations.ResetAndNonConformanceLoseTheReading
  refine ⟨fun s t ctl hrst h => ?_, fun s ctl hs hc => ?_⟩
  · obtain rfl : s.applyReset = t := by simpa [step_of_rst_high hrst] using h
    exact observe_append_reset ctl _ _ _ _
  · exact observe_of_not_conforming ctl (hs.config.symm ▸ hc)

/-! ### One primitive under a polling host -/

/-- With no hold pending, a polling host's step performs the primitive at UPC (R38). -/
theorem step_performs {p : Prim} (hrst : s.rst = false) (hbusy : s.busy = true) (hwait : s.hostWait = .poll)
    (hhold : s.hold = 0) (hp : s.exp[s.upc]? = some p) : step s = .next (s.perform p) := by
  simp [step, hrst, hbusy, State.continueCommand, hwait, State.engineStep, hhold, hp]

/-- Settles O35: the step performs the primitive at UPC, and neither of the two writes a pin. -/
theorem holdAndSetFlagTouchNoPin : Obligations.HoldAndSetFlagTouchNoPin := by
  unfold Obligations.HoldAndSetFlagTouchNoPin
  refine fun s hrst hbusy hwait hhold => ⟨fun d hp => ?_, fun b hp => ?_⟩
  · simp [step_performs hrst hbusy hwait hhold hp, State.perform, State.addHold, State.advance, hhold]
  · simp [step_performs hrst hbusy hwait hhold hp, State.perform, State.setFlag, State.advance]

end Sys2Proof.Machine
end

section
/-! The state right after an acceptance, and what a step reaches: a step of the engine is one engine step after another,
whichever way the host waits. -/

namespace Sys2Proof.Machine

variable {s t : State}

/-! ### The state right after an acceptance -/

/-- The accepting edge of a word on the port: the latch, the checks, and the expansion loaded (R112, R212). -/
def State.accepted (s : State) : State :=
  match decode s.cmdWord with
  | .ok i =>
    if checkOf s i = .ok then (s.latch.atAcceptance i).load (bodyOf s.cfg i ++ [.complete .ok])
    else s.latch.load [.complete (checkOf s i)]
  | .error _ => s.latch.load [.complete (s.acceptCheck true false false)]

theorem State.accepted_of_ok {i : Instr} (hd : decode s.cmdWord = .ok i) (hc : checkOf s i = .ok) :
    s.accepted = (s.latch.atAcceptance i).load (bodyOf s.cfg i ++ [.complete .ok]) := by
  simp [State.accepted, hd, hc]

theorem State.accepted_of_rejected {i : Instr} (hd : decode s.cmdWord = .ok i) (hc : checkOf s i ≠ .ok) :
    s.accepted = s.latch.load [.complete (checkOf s i)] := by
  simp [State.accepted, hd, hc]

theorem State.accepted_of_illegal {e : Illegal} (hd : decode s.cmdWord = .error e) :
    s.accepted = s.latch.load [.complete (s.acceptCheck true false false)] := by
  simp [State.accepted, hd]

theorem State.acceptCheck_illegal_ne_ok (s : State) : s.acceptCheck true false false ≠ .ok := by
  cases h : s.cfgOk <;> simp [State.acceptCheck, h]

/-- An accepted word loads the expansion of its command, or the single `Complete(r)` of a failed check (R38, R212). -/
theorem State.accepted_cases (s : State) :
    (∃ i, decode s.cmdWord = .ok i ∧ checkOf s i = .ok ∧
      s.accepted = (s.latch.atAcceptance i).load (bodyOf s.cfg i ++ [.complete .ok])) ∨
    (∃ r, r ≠ .ok ∧ s.accepted = s.latch.load [.complete r]) := by
  cases hd : decode s.cmdWord with
  | error e => exact .inr ⟨_, s.acceptCheck_illegal_ne_ok, State.accepted_of_illegal hd⟩
  | ok i =>
    by_cases hc : checkOf s i = .ok
    · exact .inl ⟨i, rfl, hc, State.accepted_of_ok hd hc⟩
    · exact .inr ⟨_, hc, State.accepted_of_rejected hd hc⟩

/-- INIT's acceptance clears INITIALIZED, no other one touches the state it latched (R171). -/
theorem State.atAcceptance_cases (i : Instr) (s : State) :
    s.atAcceptance i = s ∨ (i = .init ∧ s.atAcceptance i = { s with initialized := false }) := by
  by_cases hc : checkOf s i = .ok
  · cases i with
    | init => exact .inr ⟨rfl, s.atAcceptance_init hc⟩
    | clear | setcur | putc | sendb | sendn => exact .inl rfl
  · exact .inl (s.atAcceptance_rejected i hc)

/-- An acceptance writes EXP, and INITIALIZED at most, on top of the latch and what every `load` writes. -/
theorem State.accepted_eq (s : State) :
    s.accepted = State.load s.accepted.exp { s.latch with initialized := s.accepted.initialized } := by
  rcases s.accepted_cases with ⟨i, -, -, ha⟩ | ⟨r, -, ha⟩
  · rcases s.latch.atAcceptance_cases i with h | ⟨-, h⟩ <;> rw [ha, h] <;> rfl
  · rw [ha]; rfl

@[simp] theorem State.accepted_e (s : State) : s.accepted.e = s.e := (congrArg State.e s.accepted_eq).trans s.latch_e
@[simp] theorem State.accepted_busy (s : State) : s.accepted.busy = true := congrArg State.busy s.accepted_eq
@[simp] theorem State.accepted_done (s : State) : s.accepted.done = false := congrArg State.done s.accepted_eq
@[simp] theorem State.accepted_upc (s : State) : s.accepted.upc = 0 := congrArg State.upc s.accepted_eq
@[simp] theorem State.accepted_result (s : State) : s.accepted.result = s.result :=
  (congrArg State.result s.accepted_eq).trans s.latch_result
@[simp] theorem State.accepted_cmdl (s : State) : s.accepted.cmdl = s.cmdWord :=
  (congrArg State.cmdl s.accepted_eq).trans s.latch_cmdl
@[simp] theorem State.accepted_cfg (s : State) : s.accepted.cfg = s.cfg :=
  (congrArg State.cfg s.accepted_eq).trans s.latch_cfg
@[simp] theorem State.accepted_rst (s : State) : s.accepted.rst = s.rst :=
  (congrArg State.rst s.accepted_eq).trans s.latch_rst
@[simp] theorem State.accepted_hostWait (s : State) : s.accepted.hostWait = s.hostWait :=
  (congrArg State.hostWait s.accepted_eq).trans s.latch_hostWait
@[simp] theorem State.accepted_now (s : State) : s.accepted.now = s.now + (s.cfg.tickNs + s.hostDelay) :=
  (congrArg State.now s.accepted_eq).trans s.latch_now
@[simp] theorem State.accepted_trace (s : State) :
    s.accepted.trace = s.trace ++ [(s.now + (s.cfg.tickNs + s.hostDelay), .accept s.cmdWord)] :=
  (congrArg State.trace s.accepted_eq).trans s.latch_trace

/-- INITIALIZED falls at an acceptance for an INIT alone (R39, R171). -/
theorem State.accepted_initialized (hd : decode s.cmdWord ≠ .ok .init) : s.accepted.initialized = s.initialized := by
  rcases s.accepted_cases with ⟨i, hi, -, ha⟩ | ⟨r, -, ha⟩
  · rcases s.latch.atAcceptance_cases i with h | ⟨rfl, -⟩
    · simp [ha, h]
    · exact absurd hi hd
  · simp [ha]

theorem State.accepted_initialized_init (hd : decode s.cmdWord = .ok .init) (hc : checkOf s .init = .ok) :
    s.accepted.initialized = false := by
  rw [State.accepted_of_ok hd hc, State.load_initialized, State.atAcceptance_init _ (by simpa using hc)]

theorem State.acceptCommand_ok (body : List Prim) (s : State) :
    s.acceptCommand .ok body = (s.load (body ++ [.complete .ok])).proceed := rfl

/-- A ready engine with a word on the port accepts it, and then the host or the engine goes on (R112, R227). -/
theorem step_accepts (hrst : s.rst = false) (hbusy : s.busy = false) (hvalid : s.cmdValid = true) :
    step s = s.accepted.proceed := by
  simp only [step, hrst, hbusy, hvalid, Bool.false_eq_true, if_false, if_true]
  cases hd : decode s.cmdWord with
  | error e => rw [State.accepted_of_illegal hd, State.rejectWord, State.raise]; simp [State.acceptCheck, State.cfgOk]
  | ok i =>
    by_cases hc : checkOf s i = .ok
    · simp only [exec_eq, checkOf_latch, hc, State.acceptCommand_ok, State.latch_cfg, State.accepted_of_ok hd hc]
    · simp only [exec_rejected s.latch i (by simpa using hc), checkOf_latch, State.raise, State.accepted_of_rejected hd hc]

/-! ### Engine steps -/

/-- A busy engine makes one engine step (R38). -/
def EngineSteps (s t : State) : Prop := s.busy = true ∧ s.engineStep = .next t

/-- A busy engine makes engine steps, any number of them. -/
abbrev Reaches : State → State → Prop := Relation.ReflTransGen EngineSteps

/-- What one engine step can do: the holds elapse, or the primitive at UPC is performed. -/
theorem EngineSteps.cases (h : EngineSteps s t) :
    (s.hold ≠ 0 ∧ t = s.elapse) ∨ (s.hold = 0 ∧ ∃ p, s.exp[s.upc]? = some p ∧ t = s.perform p) := by
  obtain ⟨-, h⟩ := h
  rcases s.engineStep_cases with ⟨hh, he⟩ | ⟨hh, p, hp, he⟩ | ⟨-, -, he⟩ <;> rw [he] at h <;> cases h
  · exact .inl ⟨hh, rfl⟩
  · exact .inr ⟨hh, p, hp, rfl⟩

theorem State.elapse_of_hold_zero (h : s.hold = 0) : s.elapse = s := by
  cases s
  simp_all [State.elapse]

/-- Running one primitive, after the holds before it, is one engine step or two. -/
theorem reaches_elapse_perform {p : Prim} (hbusy : s.busy = true) (hp : s.exp[s.upc]? = some p) :
    Reaches s (s.elapse.perform p) := by
  have hperform : EngineSteps s.elapse (s.elapse.perform p) := ⟨hbusy, by simp [State.engineStep, hp]⟩
  by_cases hh : s.hold = 0
  · rw [State.elapse_of_hold_zero hh] at hperform ⊢
    exact .single hperform
  · exact .head ⟨hbusy, by simp [State.engineStep, hh]⟩ (.single hperform)

/-- Running the rest of an expansion at once is to make its engine steps (R227, log 4). -/
theorem reaches_of_runPrims (ps : List Prim) (hbusy : s.busy = true) (hps : s.exp.drop s.upc = ps)
    (h : State.runPrims ps s = .next t) : Reaches s t := by
  induction ps generalizing s with
  | nil => simp [State.runPrims] at h
  | cons p ps ih =>
    have hp : s.exp[s.upc]? = some p := by simpa using congrArg List.head? hps
    have hrest : s.exp.drop (s.upc + 1) = ps := by simpa using congrArg List.tail hps
    have hone := reaches_elapse_perform hbusy hp
    have hgo (hplain : p.plain = true) (h : State.runPrims ps (s.elapse.perform p) = .next t) : Reaches s t := by
      obtain ⟨hupc, hexp, hbusy', -, -⟩ := s.elapse.perform_plain p hplain
      exact hone.trans (ih (hbusy'.trans hbusy) (by simpa [hupc, hexp] using hrest) h)
    cases p with
    | complete r =>
      obtain rfl : s.elapse.perform (.complete r) = t := by simpa [State.runPrims] using h
      exact hone
    | emit w => exact hgo rfl h
    | hold d => exact hgo rfl h
    | setFlag f b => exact hgo rfl h

theorem reaches_of_proceed (hbusy : s.busy = true) (h : s.proceed = .next t) : Reaches s t := by
  unfold State.proceed at h
  split at h
  · cases h; exact .refl
  · exact reaches_of_runPrims _ hbusy rfl h

theorem reaches_of_continueCommand (hbusy : s.busy = true) (h : s.continueCommand = .next t) : Reaches s t := by
  unfold State.continueCommand at h
  split at h
  · exact .single ⟨hbusy, h⟩
  · exact reaches_of_runPrims _ hbusy rfl h

/-- What one step can do, in terms of engine steps: reset, go on, accept and go on, or wait. -/
theorem step_reaches (h : step s = .next t) :
    (s.rst = true ∧ t = s.applyReset) ∨
    (s.rst = false ∧ s.busy = true ∧ Reaches s t) ∨
    (s.rst = false ∧ s.busy = false ∧ s.cmdValid = true ∧ Reaches s.accepted t) ∨
    (s.rst = false ∧ s.busy = false ∧ s.cmdValid = false ∧ t = s) := by
  cases hrst : s.rst with
  | true => exact .inl ⟨rfl, by simpa [step_of_rst_high hrst] using h.symm⟩
  | false =>
    cases hbusy : s.busy with
    | true => exact .inr (.inl ⟨rfl, rfl, reaches_of_continueCommand hbusy (by simpa [step, hrst, hbusy] using h)⟩)
    | false =>
      cases hvalid : s.cmdValid with
      | true =>
        rw [step_accepts hrst hbusy hvalid] at h
        exact .inr (.inr (.inl ⟨rfl, rfl, rfl, reaches_of_proceed s.accepted_busy h⟩))
      | false => exact .inr (.inr (.inr ⟨rfl, rfl, rfl, by simpa [step, hrst, hbusy, hvalid] using h.symm⟩))

/-- What the holds' elapsing and every primitive keep, engine steps keep. -/
theorem Reaches.keeps (P : State → Prop) (helapse : ∀ s, P s → P s.elapse) (hperform : ∀ p s, P s → P (s.perform p))
    (h : Reaches s t) (hs : P s) : P t := by
  induction h with
  | refl => exact hs
  | tail _ hstep ih =>
    rcases hstep.cases with ⟨-, rfl⟩ | ⟨-, p, -, rfl⟩
    · exact helapse _ ih
    · exact hperform _ _ ih

/-! ### The sequencer stays legal -/

/-- What is left of a running command starts with the primitive at UPC. -/
theorem State.Legal.planShape_cons {p : Prim} (hs : s.Legal) (hbusy : s.busy = true) (hp : s.exp[s.upc]? = some p) :
    planShape s.e (p :: s.exp.drop (s.upc + 1)) = true := by
  simpa [s.drop_eq_cons p hp] using hs.running hbusy

theorem State.elapse_legal (hs : s.Legal) (hbusy : s.busy = true) : s.elapse.Legal where
  idle := fun h => by simp [hbusy] at h
  running := hs.running
  initFlag := hs.initFlag
  expands := hs.expands

/-- `Complete` finds E low and leaves the sequencer empty (C7, R213). -/
theorem State.complete_legal {r : ResultCode} (hs : s.Legal) (hbusy : s.busy = true) (hhold : s.hold = 0)
    (hp : s.exp[s.upc]? = some (.complete r)) : (s.complete r).Legal := by
  have hshape := hs.planShape_cons hbusy hp
  simp only [planShape, Bool.and_eq_true, Bool.not_eq_true'] at hshape
  refine ⟨fun _ => ⟨rfl, rfl, hhold, hshape.1⟩, ?_, ?_, ?_⟩ <;> intro h <;> simp [State.complete] at h

/-- A primitive that is no `Complete` keeps the sequencer legal where the rest of the plan fits the new level of E and
writes a flag only while INITIALIZED = 0. -/
theorem State.Legal.of_plain {p : Prim} (hs : s.Legal) (hbusy : s.busy = true) (hplain : p.plain = true)
    (hshape : planShape (s.perform p).e (s.exp.drop (s.upc + 1)) = true)
    (hflag : .setFlag .initialized true ∈ s.exp.drop (s.upc + 1) → (s.perform p).initialized = false) :
    (s.perform p).Legal := by
  obtain ⟨hupc, hexp, hbusy', -, -⟩ := s.perform_plain p hplain
  refine ⟨fun h => by simp [hbusy', hbusy] at h, fun _ => ?_, fun _ => ?_, fun _ => ?_⟩
  · rw [hexp, hupc]; exact hshape
  · rw [hexp, hupc]; exact hflag
  · simpa only [State.Expands, State.perform_cmdl, State.perform_cfg, hexp] using hs.expands hbusy

theorem State.perform_legal {p : Prim} (hs : s.Legal) (hbusy : s.busy = true) (hhold : s.hold = 0)
    (hp : s.exp[s.upc]? = some p) : (s.perform p).Legal := by
  have hshape := hs.planShape_cons hbusy hp
  have hinit : .setFlag .initialized true ∈ s.exp.drop (s.upc + 1) → s.initialized = false := fun hm =>
    hs.initFlag hbusy (s.drop_eq_cons p hp ▸ List.mem_cons_of_mem _ hm)
  cases p with
  | complete r => exact State.complete_legal hs hbusy hhold hp
  | hold d => exact hs.of_plain hbusy rfl hshape hinit
  | setFlag f b =>
    simp only [planShape, Bool.and_eq_true, Bool.not_eq_true', decide_eq_true_eq] at hshape
    obtain ⟨⟨he, -⟩, hrest⟩ := hshape
    exact hs.of_plain hbusy rfl (by simp [hrest, State.perform, he, planShape]) (by simp [hrest])
  | emit w =>
    refine hs.of_plain hbusy rfl ?_ (by simpa [State.perform, State.emit] using hinit)
    cases w with
    | e v =>
      simp only [planShape, Bool.and_eq_true] at hshape
      exact (beq_iff_eq.1 hshape.1) ▸ hshape.2
    | rs v | d v =>
      simp only [planShape, Bool.and_eq_true] at hshape
      exact hshape.2

theorem EngineSteps.legal (h : EngineSteps s t) (hs : s.Legal) : t.Legal := by
  rcases h.cases with ⟨-, rfl⟩ | ⟨hhold, p, hp, rfl⟩
  · exact State.elapse_legal hs h.1
  · exact State.perform_legal hs h.1 hhold hp

theorem Reaches.legal (h : Reaches s t) (hs : s.Legal) : t.Legal := by
  induction h with
  | refl => exact hs
  | tail _ hstep ih => exact hstep.legal ih

/-- The accepting edge of an idle engine loads a plan that fits its pins (R38, R134, R171). -/
theorem State.accepted_legal (hs : s.Legal) (hbusy : s.busy = false) : s.accepted.Legal := by
  obtain ⟨-, -, -, he⟩ := hs.idle hbusy
  rcases s.accepted_cases with ⟨i, hd, hc, ha⟩ | ⟨r, hr, ha⟩
  · have hexp : s.accepted.exp = bodyOf s.cfg i ++ [.complete .ok] := by rw [ha, State.load_exp]
    refine ⟨fun h => by simp at h, fun _ => ?_, fun _ hm => ?_, fun _ => .inl ⟨i, ?_, ?_⟩⟩
    · simpa [he, hexp] using bodyOf_planShape s.cfg i
    · rw [hexp, State.accepted_upc, List.drop_zero] at hm
      obtain rfl := setFlag_mem_bodyOf _ _ _ _ hm
      exact State.accepted_initialized_init hd hc
    · rw [State.accepted_cmdl, hd]
    · rw [State.accepted_cfg, hexp]
  · have hexp : s.accepted.exp = [.complete r] := by rw [ha, State.load_exp]
    exact ⟨fun h => by simp at h, fun _ => by simp [he, hexp, planShape], fun _ hm => by simp [hexp] at hm,
      fun _ => .inr ⟨r, hr, hexp⟩⟩

theorem State.applyReset_legal (s : State) : s.applyReset.Legal :=
  ⟨fun _ => ⟨rfl, rfl, rfl, rfl⟩, nofun, nofun, nofun⟩

/-- Settles O43: a step is a reset, or engine steps from the state itself or from its acceptance, and each of them keeps
the sequencer legal. -/
theorem stepKeepsTheSequencerLegal : Obligations.StepKeepsTheSequencerLegal := by
  unfold Obligations.StepKeepsTheSequencerLegal
  intro s t hs h
  rcases step_reaches h with ⟨-, rfl⟩ | ⟨-, -, hr⟩ | ⟨-, hbusy, -, hr⟩ | ⟨-, -, -, rfl⟩
  · exact s.applyReset_legal
  · exact hr.legal hs
  · exact hr.legal (State.accepted_legal hs hbusy)
  · exact hs

end Sys2Proof.Machine
end

section
/-! What a step does to the trace, to DONE and RESULT, to INITIALIZED and to the host's side; that it cannot stop, and
that both ways to wait reach one state. -/

namespace Sys2Proof.Machine

variable {s t : State}

/-! ### RESULT and DONE -/

/-- Every event is a pin write. -/
def pinsOnly (evs : Trace) : Prop := ∀ ev ∈ evs, ∃ p, ev.2 = .pin p

theorem pinsOnly_nil : pinsOnly [] := fun _ hev => absurd hev List.not_mem_nil

theorem pinsOnly.append_pin {evs : Trace} (h : pinsOnly evs) (n : Time) (p : PinWrite) :
    pinsOnly (evs ++ [(n, .pin p)]) := by
  intro ev hev
  rcases List.mem_append.1 hev with hev | hev
  · exact h ev hev
  · exact ⟨p, by rw [List.mem_singleton.1 hev]⟩

theorem pinsOnly.not_done {evs : Trace} (h : pinsOnly evs) (n : Time) (r : ResultCode) : (n, .done r) ∉ evs :=
  fun hm => by simpa using h _ hm

theorem pinsOnly.not_accept {evs : Trace} (h : pinsOnly evs) (n : Time) (w : Word) : (n, .accept w) ∉ evs :=
  fun hm => by simpa using h _ hm

/-- Between acceptance and completion only pins are written; the completion is the last event, with its code in RESULT
(R40, R213). -/
theorem Reaches.reports (h : Reaches s t) (hbusy : s.busy = true) :
    ∃ evs, pinsOnly evs ∧
      ((t.busy = true ∧ t.trace = s.trace ++ evs ∧ t.done = s.done ∧ t.result = s.result) ∨
       (t.busy = false ∧ t.trace = s.trace ++ (evs ++ [(t.now, .done t.result)]) ∧ t.done = true)) := by
  induction h with
  | refl => exact ⟨[], pinsOnly_nil, .inl ⟨hbusy, by simp, rfl, rfl⟩⟩
  | @tail b c _ hstep ih =>
    obtain ⟨evs, hpins, ⟨-, htr, hdone, hres⟩ | ⟨hidle, -, -⟩⟩ := ih
    · rcases hstep.cases with ⟨-, rfl⟩ | ⟨-, p, -, rfl⟩
      · exact ⟨evs, hpins, .inl ⟨hstep.1, htr, hdone, hres⟩⟩
      · cases p with
        | emit w =>
          obtain ⟨-, -, hb, hd, hr⟩ := b.perform_plain (.emit w) rfl
          exact ⟨_, hpins.append_pin (b.now + b.cfg.gap b.freeCount) w,
            .inl ⟨hb.trans hstep.1, by simp [State.perform, htr], hd.trans hdone, hr.trans hres⟩⟩
        | hold d => exact ⟨evs, hpins, .inl ⟨hstep.1, htr, hdone, hres⟩⟩
        | setFlag f b => cases f; exact ⟨evs, hpins, .inl ⟨hstep.1, htr, hdone, hres⟩⟩
        | complete r => exact ⟨evs, hpins, .inr ⟨rfl, by simp [State.perform, htr, State.complete], rfl⟩⟩
    · simp [hstep.1] at hidle

/-- A step with `rst` = 0 ends with a completion, or adds pin events to a running command, or to a fresh acceptance. -/
theorem step_reports (hrst : s.rst = false) (h : step s = .next t) :
    (∃ evs, t.trace = s.trace ++ (evs ++ [(t.now, .done t.result)]) ∧ t.done = true) ∨
    (∃ evs, pinsOnly evs ∧ t.trace = s.trace ++ evs ∧ t.done = s.done ∧ t.result = s.result) ∨
    (∃ n w evs, pinsOnly evs ∧ t.trace = s.trace ++ (n, .accept w) :: evs ∧ t.done = false ∧ t.result = s.result) := by
  rcases step_reaches h with ⟨hr, -⟩ | ⟨-, hbusy, hr⟩ | ⟨-, -, -, hr⟩ | ⟨-, -, -, rfl⟩
  · simp [hrst] at hr
  · obtain ⟨evs, hpins, ⟨-, htr, hdone, hres⟩ | ⟨-, htr, hdone⟩⟩ := hr.reports hbusy
    · exact .inr (.inl ⟨evs, hpins, htr, hdone, hres⟩)
    · exact .inl ⟨evs, htr, hdone⟩
  · obtain ⟨evs, hpins, ⟨-, htr, hdone, hres⟩ | ⟨-, htr, hdone⟩⟩ := hr.reports s.accepted_busy
    · exact .inr (.inr ⟨_, _, evs, hpins, by rw [htr, State.accepted_trace, List.append_assoc]; rfl,
        by simpa using hdone, by simpa using hres⟩)
    · exact .inl ⟨_ :: evs, by rw [htr, State.accepted_trace, List.append_assoc]; rfl, hdone⟩
  · exact .inr (.inl ⟨[], pinsOnly_nil, by simp, rfl, rfl⟩)

/-- Settles O41: in each of the three cases of `step_reports` the new events say what DONE and RESULT hold. -/
theorem resultIsWrittenOnlyAtCompletion : Obligations.ResultIsWrittenOnlyAtCompletion := by
  unfold Obligations.ResultIsWrittenOnlyAtCompletion
  intro s t hrst h
  rcases step_reports hrst h with ⟨evs, htr, hdone⟩ | ⟨evs, hpins, htr, hdone, hres⟩ | ⟨n, w, evs, hpins, htr, hdone, hres⟩
  · exact ⟨_, htr, fun _ => ⟨t.now, by simp⟩, fun _ => ⟨hdone, by simp⟩,
      fun _ hno => absurd (by simp) (hno t.now t.result), fun hnil => by simp at hnil⟩
  · exact ⟨evs, htr, fun hne => absurd hres hne, fun ⟨_, _, hm⟩ => absurd hm (hpins.not_done _ _),
      fun ⟨_, _, hm⟩ => absurd hm (hpins.not_accept _ _), fun _ => ⟨hdone, hres⟩⟩
  · refine ⟨_, htr, fun hne => absurd hres hne, fun ⟨m, r, hm⟩ => ?_, fun _ _ => hdone, nofun⟩
    rcases List.mem_cons.1 hm with hm | hm
    · cases hm
    · exact absurd hm (hpins.not_done _ _)

/-! ### The host's side and INITIALIZED -/

/-- No primitive writes CMDL, the configuration or the host's side. -/
theorem Reaches.untouched (h : Reaches s t) : Untouched s t := by
  refine h.keeps (Untouched s) (fun _ hu => ⟨hu.1, hu.2, hu.3, hu.4, hu.5, hu.6, hu.7, hu.8, hu.9⟩) (fun p u hu => ?_)
    ⟨rfl, rfl, rfl, rfl, rfl, rfl, rfl, rfl, rfl⟩
  obtain ⟨hcmdl, hcfg, hrst, hvalid, hword, hplat, hdelay, hwait, hstream⟩ := hu
  exact ⟨by simpa, by simpa, by simpa, by simpa, by simpa, by simpa, by simpa, by simpa, by simpa⟩

/-- Settles O37: engine steps leave the host's side alone and record pins and a Done only. -/
theorem busyEngineHoldsOffCommands : Obligations.BusyEngineHoldsOffCommands := by
  unfold Obligations.BusyEngineHoldsOffCommands
  intro s t hrst hbusy h
  rcases step_reaches h with ⟨hr, -⟩ | ⟨-, -, hr⟩ | ⟨-, hidle, -⟩ | ⟨-, hidle, -⟩
  · simp [hrst] at hr
  · obtain ⟨hcmdl, -, -, hvalid, hword, -, -, -, hstream⟩ := hr.untouched
    refine ⟨by simp [State.cmdReady, hbusy], hvalid, hword, hstream, hcmdl, ?_⟩
    obtain ⟨evs, hpins, ⟨-, htr, -, -⟩ | ⟨-, htr, -⟩⟩ := hr.reports hbusy
    · exact ⟨evs, htr, fun ev hev w => by obtain ⟨p, hp⟩ := hpins ev hev; simp [hp]⟩
    · refine ⟨_, htr, fun ev hev w => ?_⟩
      rcases List.mem_append.1 hev with hev | hev
      · obtain ⟨p, hp⟩ := hpins ev hev
        simp [hp]
      · simp [List.mem_singleton.1 hev]
  · simp [hbusy] at hidle
  · simp [hbusy] at hidle

/-- A running command writes a flag only where it is INIT (R39). -/
theorem State.Legal.cmdl_of_setFlag {f : Flag} {b : Bool} (hs : s.Legal) (hbusy : s.busy = true)
    (hm : .setFlag f b ∈ s.exp) : decode s.cmdl = .ok .init := by
  rcases hs.expands hbusy with ⟨i, hd, hexp⟩ | ⟨r, -, hexp⟩
  · rw [hexp] at hm
    rwa [← setFlag_mem_bodyOf _ _ _ _ hm]
  · simp [hexp] at hm

theorem EngineSteps.initialized (h : EngineSteps s t) (hs : s.Legal) (hd : decode s.cmdl ≠ .ok .init) :
    t.initialized = s.initialized := by
  rcases h.cases with ⟨-, rfl⟩ | ⟨-, p, hp, rfl⟩
  · rfl
  · cases p with
    | setFlag f b => exact absurd (hs.cmdl_of_setFlag h.1 (List.mem_of_getElem? hp)) hd
    | emit w => simp [State.perform, State.emit]
    | hold d => rfl
    | complete r => rfl

theorem Reaches.initialized (h : Reaches s t) (hs : s.Legal) (hd : decode s.cmdl ≠ .ok .init) :
    t.initialized = s.initialized := by
  induction h with
  | refl => rfl
  | tail hr hstep ih => exact (hstep.initialized (Reaches.legal hr hs) (by rwa [(Reaches.untouched hr).cmdl])).trans ih

/-- Settles O40: where neither the accepted nor the running command is INIT, no engine step writes the flag. -/
theorem initializedIsWrittenOnlyByInitAndReset : Obligations.InitializedIsWrittenOnlyByInitAndReset := by
  unfold Obligations.InitializedIsWrittenOnlyByInitAndReset
  intro s t hs h hne
  rcases step_reaches h with ⟨hrst, -⟩ | ⟨-, hbusy, hr⟩ | ⟨-, hbusy, -, hr⟩ | ⟨-, -, -, rfl⟩
  · exact .inl hrst
  · exact .inr (.inr ⟨hbusy, not_not.1 fun hd => hne (hr.initialized hs hd)⟩)
  · refine .inr (.inl ⟨hbusy, not_not.1 fun hd => hne ?_⟩)
    have hkept := hr.initialized (State.accepted_legal hs hbusy) (by rwa [State.accepted_cmdl])
    exact hkept.trans (State.accepted_initialized hd)
  · exact absurd rfl hne

/-! ### No legal state stops -/

/-- A plan that fits the pins ends in its one `Complete` (R213). -/
theorem planShape_ends (e : Bool) (ps : List Prim) (h : planShape e ps = true) :
    ∃ body r, ps = body ++ [.complete r] ∧ body.all Prim.plain = true := by
  induction ps generalizing e with
  | nil => simp [planShape] at h
  | cons p ps ih =>
    have hgo (hplain : p.plain = true) {e' : Bool} (h : planShape e' ps = true) :
        ∃ body r, p :: ps = body ++ [.complete r] ∧ body.all Prim.plain = true := by
      obtain ⟨body, r, rfl, hbody⟩ := ih e' h
      exact ⟨p :: body, r, rfl, by simp [hplain, hbody]⟩
    cases p with
    | complete r => exact ⟨[], r, by simp_all [planShape], rfl⟩
    | hold d => exact hgo rfl h
    | setFlag f b =>
      simp only [planShape, Bool.and_eq_true, decide_eq_true_eq] at h
      exact ⟨[.setFlag f b], .ok, by rw [h.2]; rfl, rfl⟩
    | emit w =>
      cases w <;> simp only [planShape, Bool.and_eq_true] at h <;> exact hgo rfl h.2

theorem runToCompletion_of_ends {body : List Prim} {r : ResultCode} (hexp : s.exp.drop s.upc = body ++ [.complete r])
    (hplain : body.all Prim.plain = true) :
    s.runToCompletion = .next ((s.performAll body).elapse.complete r) := by
  rw [State.runToCompletion, hexp, s.runPrims_eq body r hplain]
  rfl

theorem State.Legal.engineStep_next (hs : s.Legal) (hbusy : s.busy = true) : ∃ t, s.engineStep = .next t := by
  rcases s.engineStep_cases with ⟨-, he⟩ | ⟨-, p, -, he⟩ | ⟨-, hnone, -⟩
  · exact ⟨_, he⟩
  · exact ⟨_, he⟩
  · have hnil : s.exp.drop s.upc = [] := by simpa using hnone
    simpa [hnil, planShape] using hs.running hbusy

theorem State.Legal.runToCompletion_next (hs : s.Legal) (hbusy : s.busy = true) : ∃ t, s.runToCompletion = .next t := by
  obtain ⟨body, r, hexp, hplain⟩ := planShape_ends _ _ (hs.running hbusy)
  exact ⟨_, runToCompletion_of_ends hexp hplain⟩

/-- Settles O48: what is left of a legal command is never empty and ends in `Complete`. -/
theorem legalStatesAlwaysStep : Obligations.LegalStatesAlwaysStep := by
  unfold Obligations.LegalStatesAlwaysStep
  intro s hs
  cases hrst : s.rst with
  | true => exact ⟨_, step_of_rst_high hrst⟩
  | false =>
    cases hbusy : s.busy with
    | true =>
      rw [show step s = s.continueCommand by simp [step, hrst, hbusy], State.continueCommand]
      cases s.hostWait with
      | poll => exact hs.engineStep_next hbusy
      | untilReady => exact hs.runToCompletion_next hbusy
    | false =>
      cases hvalid : s.cmdValid with
      | true =>
        rw [step_accepts hrst hbusy hvalid, State.proceed]
        cases s.accepted.hostWait with
        | poll => exact ⟨_, rfl⟩
        | untilReady => exact (State.accepted_legal hs hbusy).runToCompletion_next s.accepted_busy
      | false => exact ⟨s, by simp [step, hrst, hbusy, hvalid]⟩

/-! ### Both ways to wait reach one state -/

/-- The same machine, its host waiting in another way. -/
def State.withHostWait (w : HostWait) (s : State) : State := { s with hostWait := w }

theorem State.withHostWait_of_eq {w : HostWait} (h : s.hostWait = w) : s.withHostWait w = s := by
  rw [← h, State.withHostWait]

theorem State.perform_withHostWait (p : Prim) (w : HostWait) (s : State) :
    (s.withHostWait w).perform p = (s.perform p).withHostWait w := by
  cases p with
  | emit q => cases q <;> rfl
  | hold d => rfl
  | setFlag f b => cases f; rfl
  | complete r => rfl

/-- While a hold is pending, a polling host's step lets it elapse (R38, R41). -/
theorem step_elapses (hrst : s.rst = false) (hbusy : s.busy = true) (hwait : s.hostWait = .poll) (hhold : s.hold ≠ 0) :
    step s = .next s.elapse := by
  simp [step, hrst, hbusy, State.continueCommand, hwait, State.engineStep, hhold]

/-- Settles O33: `elapse` is what the pending holds do. -/
theorem pendingHoldsElapseFirst : Obligations.PendingHoldsElapseFirst := by
  unfold Obligations.PendingHoldsElapseFirst
  exact fun _ => step_elapses

/-- An engine step is a polling host's step. -/
theorem EngineSteps.polled (h : EngineSteps s t) (hrst : s.rst = false) :
    step (s.withHostWait .poll) = .next (t.withHostWait .poll) := by
  rcases h.cases with ⟨hhold, rfl⟩ | ⟨hhold, p, hp, rfl⟩
  · exact step_elapses (s := s.withHostWait .poll) hrst h.1 rfl hhold
  · rw [step_performs (s := s.withHostWait .poll) hrst h.1 rfl hhold hp, State.perform_withHostWait]

/-- A polling host sees every state that engine steps reach (R227). -/
theorem Reaches.polled (h : Reaches s t) (hrst : s.rst = false) :
    ∃ n, Host.Core.run Sys2Proof.core n (s.withHostWait .poll) = .next (t.withHostWait .poll) := by
  induction h using Relation.ReflTransGen.head_induction_on with
  | refl => exact ⟨0, rfl⟩
  | head hstep _ ih =>
    obtain ⟨n, hn⟩ := ih ((Reaches.untouched (.single hstep)).rst.trans hrst)
    exact ⟨n + 1, by simp only [Host.Core.run, Host.Check.core_step, hstep.polled hrst, hn]⟩

theorem State.latch_withHostWait (w : HostWait) (s : State) : (s.withHostWait w).latch = s.latch.withHostWait w := by
  simp only [State.withHostWait, State.latch, State.nextRequest, State.record]
  cases s.stream <;> rfl

theorem checkOf_withHostWait (w : HostWait) (s : State) (i : Instr) : checkOf (s.withHostWait w) i = checkOf s i := by
  cases i <;> rfl

theorem State.atAcceptance_withHostWait (i : Instr) (w : HostWait) (s : State) :
    (s.withHostWait w).atAcceptance i = (s.atAcceptance i).withHostWait w := by
  by_cases hc : checkOf s i = .ok
  · cases i with
    | init => rw [State.atAcceptance_init s hc, State.atAcceptance_init _ ((checkOf_withHostWait w s _).trans hc)]; rfl
    | clear | setcur | putc | sendb | sendn => rfl
  · rw [s.atAcceptance_rejected i hc, State.atAcceptance_rejected _ i (by rwa [checkOf_withHostWait])]

theorem State.accepted_withHostWait (w : HostWait) (s : State) :
    (s.withHostWait w).accepted = s.accepted.withHostWait w := by
  cases hd : decode s.cmdWord with
  | error e =>
    rw [State.accepted_of_illegal hd, State.accepted_of_illegal (s := s.withHostWait w) hd, State.latch_withHostWait]
    rfl
  | ok i =>
    by_cases hc : checkOf s i = .ok
    · rw [State.accepted_of_ok hd hc, State.accepted_of_ok (s := s.withHostWait w) hd (by rwa [checkOf_withHostWait]),
        State.latch_withHostWait, State.atAcceptance_withHostWait]
      rfl
    · rw [State.accepted_of_rejected hd hc,
        State.accepted_of_rejected (s := s.withHostWait w) hd (by rwa [checkOf_withHostWait]), State.latch_withHostWait,
        checkOf_withHostWait]
      rfl

/-- Every acceptance loads an expansion that ends in its one `Complete` (R38, R213). -/
theorem State.accepted_ends (s : State) :
    ∃ body r, s.accepted.exp.drop s.accepted.upc = body ++ [.complete r] ∧ body.all Prim.plain = true := by
  rcases s.accepted_cases with ⟨i, -, -, ha⟩ | ⟨r, -, ha⟩
  · exact ⟨bodyOf s.cfg i, .ok, by simp [ha], bodyOf_plain _ _⟩
  · exact ⟨[], r, by simp [ha], rfl⟩

/-- Settles O50: the waiting host's one step is the engine steps that the polling host sees one by one. -/
theorem pollingReachesTheSameState : Obligations.PollingReachesTheSameState := by
  unfold Obligations.PollingReachesTheSameState
  rintro s w ⟨hrst, hbusy, hvalid, -⟩ hwait
  obtain ⟨body, r, hexp, hplain⟩ := s.accepted_ends
  obtain ⟨t, hrun⟩ : ∃ t, (s.accepted.withHostWait .untilReady).runToCompletion = .next t :=
    ⟨_, runToCompletion_of_ends hexp hplain⟩
  have hreach : Reaches (s.accepted.withHostWait .untilReady) t := reaches_of_runPrims _ s.accepted_busy rfl hrun
  obtain ⟨n, hn⟩ := hreach.polled (s.accepted_rst.trans hrst)
  have hpoll : (s.accepted.withHostWait .untilReady).withHostWait .poll = s.accepted :=
    State.withHostWait_of_eq (s := s.accepted) (s.accepted_hostWait.trans hwait)
  refine ⟨n + 1, t, ?_, ?_⟩
  · change step (s.withHostWait .untilReady) = .next t
    rw [step_accepts (s := s.withHostWait .untilReady) hrst hbusy hvalid, State.accepted_withHostWait]
    exact hrun
  · have hstep : step s = .next s.accepted := by
      rw [step_accepts hrst hbusy hvalid, State.proceed, s.accepted_hostWait, hwait]
    simp only [Host.Core.run, Host.Check.core_step, hstep]
    exact hpoll ▸ hn

end Sys2Proof.Machine
end

section
/-! Acceptance in detail: a configuration error, a polling host's acceptance, the decoded command, CMDL; the reset state,
the ticks of a hold, STATUS. -/

namespace Sys2Proof.Machine

variable {s t : State}

/-! ### CFG_OK -/

/-- CFG_OK is the conjunction of the bits of PINS_BOUND (R42). -/
theorem cfgOk_iff (s : State) : s.cfgOk = true ↔ ∀ k, k < 6 → s.cfg.pinsBound.getLsbD k = true := by
  have key : ∀ b : BitVec 6, (b == 0b111111#6) = true ↔ ∀ k, k < 6 → b.getLsbD k = true := by decide
  exact key s.cfg.pinsBound

/-- CONFIG_ERROR comes before every other check (R212). -/
theorem checkOf_of_cfg_not_ok (hcfg : s.cfgOk = false) (i : Instr) : checkOf s i = .configError := by
  cases i <;> simp [checkOf, State.acceptCheck, hcfg]

theorem State.accepted_of_cfg_not_ok (hcfg : s.cfgOk = false) : s.accepted = s.latch.load [.complete .configError] := by
  cases hd : decode s.cmdWord with
  | error e => simp [State.accepted_of_illegal hd, State.acceptCheck, hcfg]
  | ok i => rw [State.accepted_of_rejected hd] <;> simp [checkOf_of_cfg_not_ok hcfg]

/-- Settles O25: whatever the word, its expansion is the single `Complete(CONFIG_ERROR)`. -/
theorem unboundPinsGiveConfigError : Obligations.UnboundPinsGiveConfigError := by
  unfold Obligations.UnboundPinsGiveConfigError
  refine ⟨cfgOk_iff, fun s w ⟨hrst, hbusy, hvalid, hword⟩ hwait hcfg => ?_⟩
  have hstep : step s = .next ((s.latch.load [.complete .configError]).elapse.complete .configError) := by
    rw [step_accepts hrst hbusy hvalid, State.accepted_of_cfg_not_ok hcfg]
    exact s.latch.raise_untilReady .configError (by simpa using hwait)
  refine ⟨_, hstep, ⟨rfl, rfl, rfl, rfl, rfl, rfl⟩, ⟨?_, ?_, ?_⟩, ?_, ?_, ?_⟩
  all_goals simp [State.complete, eventsOf, hword]

/-! ### Acceptance -/

/-- Settles O24: under a polling host `proceed` leaves the loaded state as it is. -/
theorem pollingAcceptanceLoadsTheExpansion : Obligations.PollingAcceptanceLoadsTheExpansion := by
  unfold Obligations.PollingAcceptanceLoadsTheExpansion
  intro s i hwait hc
  rw [exec_eq, hc, State.acceptCommand_ok]
  cases i with
  | init => simp [State.atAcceptance_init s hc, State.proceed, hwait, State.load]
  | clear | setcur | putc | sendb | sendn => simp [State.atAcceptance, State.proceed, hwait, State.load]

/-- The word of a command decodes to it (R102, R103): its fields match its row, and no row before that. -/
theorem decode_encode (i : Instr) : decode (encode i) = .ok i := by
  have rows {o a : Nibble} {b : Byte} (hw : encode i = o ++ a ++ b) :
      opField (encode i) = o ∧ aField (encode i) = a ∧ bField (encode i) = b := by simp [hw]
  rw [decode, getLsbD_eight, lowNibble_word]
  simp only [rowInit_matches, rowClear_matches, rowSetcur_matches, rowPutc_matches, rowSendb_matches, rowSendn_matches]
  cases i with
  | init => rfl
  | clear => rfl
  | setcur row column =>
    obtain ⟨ho, ha, hb⟩ := rows (o := 3#4) (a := row) (b := column) rfl
    simp [ho, ha, hb]
  | putc char =>
    obtain ⟨ho, ha, hb⟩ := rows (o := 4#4) (a := 0#4) (b := char) rfl
    simp [ho, ha, hb]
  | sendb isData value =>
    obtain ⟨ho, ha, hb⟩ := rows (o := 5#4) (a := 0#3 ++ BitVec.ofBool isData) (b := value) (by cases isData <;> rfl)
    cases isData <;> simp [ho, ha, hb]
  | sendn nibble =>
    have hw : encode (.sendn nibble) = 6#4 ++ 0#4 ++ (0#4 ++ nibble) := by
      rw [encode, BitVec.append_assoc]
      rfl
    obtain ⟨ho, ha, hb⟩ := rows hw
    have hlow : ∀ n : Nibble, BitVec.extractLsb' 0 4 (0#4 ++ n) = n := by decide
    simp [ho, ha, hb, hlow]

/-- The table's word of a command is its word: the engine's words have 16 bits (R100). -/
theorem tableWord_toNat (w : Word) : tableWord 16 w.toNat = w := by
  simp only [tableWord]
  rw [Nat.mod_eq_of_lt w.isLt]
  simp

theorem step_of_decoded {i : Instr} (hrst : s.rst = false) (hbusy : s.busy = false) (hvalid : s.cmdValid = true)
    (hd : decode s.cmdWord = .ok i) : step s = exec i s.latch := by
  simp [step, hrst, hbusy, hvalid, hd]

/-- Settles O31: `latch`'s own laws say the rest, and the word of a command decodes to it. -/
theorem stepRunsTheDecodedCommand : Obligations.StepRunsTheDecodedCommand := by
  unfold Obligations.StepRunsTheDecodedCommand
  refine ⟨fun s w i ⟨hrst, hbusy, hvalid, hword⟩ hd => ?_, fun s i => ?_⟩
  · refine ⟨step_of_decoded hrst hbusy hvalid (hword ▸ hd), ?_, ?_, ?_, ⟨?_, ?_, ?_⟩, ?_⟩
    all_goals simp [hword]
  · exact step_of_decoded rfl rfl rfl (by rw [State.withFetchWord, tableWord_toNat, State.present_cmdWord, decode_encode])

/-- Settles O38: a reset and an acceptance write CMDL, and an idle engine that waits does nothing. -/
theorem cmdlIsNotReadWhileIdle : Obligations.CmdlIsNotReadWhileIdle := by
  unfold Obligations.CmdlIsNotReadWhileIdle
  intro s t w hbusy h
  rcases Bool.eq_false_or_eq_true s.rst with hrst | hrst
  · obtain rfl : s.applyReset = t := by simpa [step_of_rst_high hrst] using h
    exact ⟨_, step_of_rst_high (s := { s with cmdl := w }) hrst, rfl, fun _ => rfl⟩
  rcases Bool.eq_false_or_eq_true s.cmdValid with hvalid | hvalid
  · have hsame : step { s with cmdl := w } = step s := by
      rw [step_accepts hrst hbusy hvalid, step_accepts (s := { s with cmdl := w }) hrst hbusy hvalid]
      rfl
    exact ⟨t, hsame.trans h, rfl, fun _ => rfl⟩
  · obtain rfl : s = t := by simpa [step, hrst, hbusy, hvalid] using h
    exact ⟨{ s with cmdl := w }, by simp [step, hrst, hbusy, hvalid], rfl, by simp [hrst, hvalid]⟩

/-! ### The reset state, the ticks of a hold, STATUS -/

/-- Settles O3: right after reset the engine is idle with E low, and the trace is empty. -/
theorem resetMeetsTheInvariants : Obligations.ResetMeetsTheInvariants := by
  unfold Obligations.ResetMeetsTheInvariants
  have hlegal : State.reset.Legal := ⟨fun _ => ⟨rfl, rfl, rfl, rfl⟩, nofun, nofun, nofun⟩
  have hagrees : State.reset.TraceAgrees :=
    ⟨List.Pairwise.nil, fun _ hev => absurd hev List.not_mem_nil, rfl, rfl⟩
  have hpulses : State.reset.PulseContract := ⟨Cfg.reference, PulseClocks.start Cfg.reference, rfl, rfl, rfl⟩
  exact ⟨hlegal, hagrees, rfl, hpulses⟩

/-- Settles O16: n ticks last at least t iff n is at least t / TICK_NS, and the ceiling is the least such number. -/
theorem holdTicksAreTheFewestThatLastTheHold : Obligations.HoldTicksAreTheFewestThatLastTheHold := by
  unfold Obligations.HoldTicksAreTheFewestThatLastTheHold
  intro cfg t hwf
  have htick : 0 < cfg.tickNs := by
    simp only [Cfg.wellFormed, Bool.and_eq_true, decide_eq_true_eq] at hwf
    exact hwf.1
  have key (n : Nat) : t ≤ (n : Time) * cfg.tickNs ↔ cfg.holdTicks t ≤ n := by
    rw [Cfg.holdTicks, Nat.ceil_le, div_le_iff₀ htick]
  exact ⟨(key _).2 le_rfl, fun n => (key n).1⟩

theorem ResultCode.code_le_four (r : ResultCode) : r.code.toNat ≤ 4 := by cases r <;> decide

/-- Settles O39: STATUS is its fields side by side, and `decide` reads the bits for every value of the fields. -/
theorem statusLayout : Obligations.StatusLayout := by
  unfold Obligations.StatusLayout
  have fields : ∀ (ok done inited busy : Bool) (r : BitVec 3),
      let x : Byte := 0#1 ++ BitVec.ofBool ok ++ r ++ BitVec.ofBool done ++ BitVec.ofBool inited ++ BitVec.ofBool busy
      x.getLsbD 0 = busy ∧ x.getLsbD 1 = inited ∧ x.getLsbD 2 = done ∧ x.extractLsb' 3 3 = r ∧ x.getLsbD 6 = ok ∧
        x.getLsbD 7 = false := by decide
  intro s
  obtain ⟨h0, h1, h2, h3, h6, h7⟩ := fields s.cfgOk s.done s.initialized s.busy s.result.code
  exact ⟨h0, h1, h2, h3, h6.trans rfl, h7, s.result.code_le_four⟩

end Sys2Proof.Machine
end

section
/-! What the observer makes of a command that runs to completion (R80 to R86): its expansion's events one by one, each
after the holds that are due, and a byte as two latched nibbles. -/

namespace Sys2Proof.Machine

variable {s t : State}

/-! ### The tracker apart from its clock and plan -/

section Tracker

variable (ctrl : CtrlNextAc) (k : Tracker)

/-- A tracker without what it keeps to time the next event. -/
def Tracker.scene (k : Tracker) : Tracker := { k with lastAt := 0, plan := [] }

@[simp] theorem Tracker.scene_pass (n : Time) : (k.pass n).scene = k.scene := rfl

@[simp] theorem Tracker.scene_reading : k.scene.reading = k.reading := rfl

theorem Tracker.scene_latch : (k.latch ctrl).scene = k.scene.latch ctrl := by
  unfold Tracker.latch
  split <;> simp_all [Tracker.scene]

theorem Tracker.latch_plan : (k.latch ctrl).plan = k.plan := by
  unfold Tracker.latch
  split <;> rfl

theorem Tracker.latch_lastAt : (k.latch ctrl).lastAt = k.lastAt := by
  unfold Tracker.latch
  split <;> rfl

/-- A pin write reads neither clock nor plan. -/
theorem Tracker.scene_onPin (p : PinWrite) : (k.onPin ctrl p).scene = k.scene.onPin ctrl p := by
  match p with
  | .rs _ | .d _ | .e true => rfl
  | .e false =>
    simp only [Tracker.onPin, ← Tracker.scene_latch]
    split <;> simp_all [Tracker.scene]

@[simp] theorem Tracker.onPin_plan (p : PinWrite) : (k.onPin ctrl p).plan = k.plan := by
  match p with
  | .rs _ | .d _ | .e true => rfl
  | .e false =>
    simp only [Tracker.onPin]
    split <;> simp [Tracker.latch_plan]

@[simp] theorem Tracker.onPin_lastAt (p : PinWrite) : (k.onPin ctrl p).lastAt = k.lastAt := by
  match p with
  | .rs _ | .d _ | .e true => rfl
  | .e false =>
    simp only [Tracker.onPin]
    split <;> simp [Tracker.latch_lastAt]

theorem Tracker.scene_onDone (r : ResultCode) : (k.onDone r).scene = k.scene.onDone r := by
  by_cases h : r = .ok ∧ k.initClean = true <;> simp [Tracker.onDone, Tracker.scene, h]

/-- An accepted command's expansion is the plan, from the acceptance on. -/
theorem Tracker.onAccept_plan_lastAt {w : Word} {i : Instr} (hd : decode w = .ok i) (supplyUp : ℚ) (n : Time) :
    (k.onAccept supplyUp n w).plan = bodyOf k.cfg i ∧ (k.onAccept supplyUp n w).lastAt = n := by
  simp only [Tracker.onAccept, hd]
  split
  · split <;> exact ⟨rfl, rfl⟩
  · exact ⟨rfl, rfl⟩

/-- The acceptance of a command that is not INIT leaves the view alone. -/
theorem Tracker.scene_onAccept {w : Word} {i : Instr} (hd : decode w = .ok i) (hi : i ≠ .init) (supplyUp : ℚ) (n : Time) :
    (k.onAccept supplyUp n w).scene = { k.scene with initClean := false } := by
  simp only [Tracker.onAccept, hd, hi, false_and, if_false]
  rfl

/-- What an event shows an observer that finds all holds kept. -/
def Tracker.sees (ctrl : CtrlNextAc) (k : Tracker) (ev : Event) : Tracker :=
  match ev with
  | .pin p => k.onPin ctrl p
  | .accept _ => k
  | .done _ => k
  | .reset _ => k

end Tracker

theorem track_append_singleton (ctl : Controller) (c : Cfg) (tr : Trace) (n : Time) (ev : Event) :
    track ctl c (tr ++ [(n, ev)]) = (track ctl c tr).onEvent ctl (n, ev) := by
  simp [track]

/-! ### The observer follows a running command -/

/-- With `ps` left to run, the tracker waits for the machine's next event, and no longer than the machine. -/
structure Tracker.Follows (k : Tracker) (ps : List Prim) (s : State) : Prop where
  due : k.lastAt + (dueHolds k.plan).1 ≤ s.now + s.hold + (dueHolds ps).1
  rest : (dueHolds k.plan).2 = (dueHolds ps).2

/-- An event that comes after the pending holds and a gap keeps every hold that is due. -/
theorem Tracker.Follows.checkHolds {k : Tracker} {ps : List Prim} (h : k.Follows ps s) (hdue : (dueHolds ps).1 = 0)
    (gap : Time) : k.checkHolds (s.now + s.hold + gap) = k := by
  have hkept : k.lastAt + (dueHolds k.plan).1 ≤ s.now + s.hold + gap := by
    have hle := h.due
    rw [hdue, add_zero] at hle
    exact hle.trans le_self_add
  simp [Tracker.checkHolds, hkept]

/-- One primitive: the tracker still follows, and has seen its event. -/
theorem Tracker.Follows.perform {ctl : Controller} {c : Cfg} {p : Prim} {ps : List Prim} (hplain : p.plain = true)
    (h : (track ctl c s.trace).Follows (p :: ps) s) :
    (track ctl c (s.elapse.perform p).trace).Follows ps (s.elapse.perform p) ∧
    (track ctl c (s.elapse.perform p).trace).scene =
      p.event.toList.foldl (Tracker.sees ctl.nextAc) (track ctl c s.trace).scene := by
  cases p with
  | complete r => simp [Prim.plain] at hplain
  | hold d =>
    refine ⟨⟨h.due.trans_eq ?_, h.rest⟩, rfl⟩
    simp [State.perform, dueHolds, add_assoc, add_comm d]
  | setFlag f b =>
    cases f
    exact ⟨⟨h.due.trans_eq (by simp [State.perform, dueHolds]), h.rest⟩, rfl⟩
  | emit w =>
    have htr : (s.elapse.perform (.emit w)).trace =
        s.trace ++ [(s.now + s.hold + s.cfg.gap s.freeCount, .pin w)] := by simp [State.perform]
    have htrack : track ctl c (s.elapse.perform (.emit w)).trace =
        ((track ctl c s.trace).pass (s.now + s.hold + s.cfg.gap s.freeCount)).onPin ctl.nextAc w := by
      rw [htr, track_append_singleton, Tracker.onEvent, h.checkHolds rfl]
    rw [htrack]
    refine ⟨⟨?_, ?_⟩, by rw [Tracker.scene_onPin]; rfl⟩
    · simp [Tracker.pass, h.rest, dueHolds, State.perform]
    · simp [Tracker.pass, h.rest, dueHolds]

/-- The whole expansion: the tracker has seen its events. -/
theorem Tracker.Follows.performAll {ctl : Controller} {c : Cfg} {ps : List Prim} (hplain : ps.all Prim.plain = true)
    (h : (track ctl c s.trace).Follows ps s) :
    (track ctl c (s.performAll ps).trace).Follows [] (s.performAll ps) ∧
    (track ctl c (s.performAll ps).trace).scene =
      (ps.filterMap Prim.event).foldl (Tracker.sees ctl.nextAc) (track ctl c s.trace).scene := by
  induction ps generalizing s with
  | nil => exact ⟨h, rfl⟩
  | cons p ps ih =>
    simp only [List.all_cons, Bool.and_eq_true] at hplain
    obtain ⟨hfollows, hscene⟩ := h.perform hplain.1
    obtain ⟨hend, hscene'⟩ := ih hplain.2 hfollows
    refine ⟨hend, ?_⟩
    rw [State.performAll_cons, hscene', hscene]
    cases he : p.event <;> simp [he]

/-- A command that passes its checks under a waiting host runs to completion in one step (R212, R227). -/
theorem step_completes {w : Word} {i : Instr} (ha : s.Accepting w) (hwait : s.hostWait = .untilReady)
    (hd : decode w = .ok i) (hc : checkOf s i = .ok) :
    step s = .next ((s.accepted.performAll (bodyOf s.cfg i)).elapse.complete .ok) := by
  obtain ⟨hrst, hbusy, hvalid, rfl⟩ := ha
  have hexp : s.accepted.exp.drop s.accepted.upc = bodyOf s.cfg i ++ [.complete .ok] := by
    simp [State.accepted_of_ok hd hc]
  rw [step_accepts hrst hbusy hvalid, State.proceed, s.accepted_hostWait, hwait]
  exact runToCompletion_of_ends hexp (bodyOf_plain _ _)

/-- What the observer has seen when a command has completed: the acceptance, the expansion's events, the completion. -/
theorem track_completed {ctl : Controller} {w : Word} {i : Instr} (hs : s.TraceAgrees) (hword : s.cmdWord = w)
    (hd : decode w = .ok i) :
    (track ctl s.cfg ((s.accepted.performAll (bodyOf s.cfg i)).elapse.complete .ok).trace).scene =
      (((bodyOf s.cfg i).filterMap Prim.event).foldl (Tracker.sees ctl.nextAc)
        ((track ctl s.cfg s.trace).onAccept ctl.supplyUp s.accepted.now w).scene).onDone .ok := by
  have hcfg : (track ctl s.cfg s.trace).cfg = s.cfg := (track_cfg _ _ _).trans hs.config
  have haccept : track ctl s.cfg s.accepted.trace =
      (track ctl s.cfg s.trace).onAccept ctl.supplyUp s.accepted.now w := by
    rw [State.accepted_trace, track_append_singleton, hword, State.accepted_now]
    rfl
  obtain ⟨hplan, hlast⟩ := (track ctl s.cfg s.trace).onAccept_plan_lastAt hd ctl.supplyUp s.accepted.now
  have hfollows : (track ctl s.cfg s.accepted.trace).Follows (bodyOf s.cfg i) s.accepted := by
    rw [haccept]
    exact ⟨by rw [hplan, hlast, hcfg]; gcongr; exact le_self_add, by rw [hplan, hcfg]⟩
  obtain ⟨hend, hscene⟩ := hfollows.performAll (bodyOf_plain _ _)
  rw [State.complete_trace, track_append_singleton, ← haccept, ← hscene, Tracker.onEvent]
  simp only [State.elapse_now, State.elapse_trace, hend.checkHolds rfl, Tracker.scene_onDone, Tracker.scene_pass]

/-! ### A byte is two latched nibbles -/

/-- A raw nibble is latched once, where the observer is synchronised or UNKNOWN (R81). -/
theorem foldl_sees_nibbleEvents (ctrl : CtrlNextAc) (k : Tracker) (n : Nibble) (hsync : k.view.sync ≠ some .unsync) :
    (nibbleEvents n).foldl (Tracker.sees ctrl) k =
      { k with d := n, e := false, view := k.view.latch ctrl k.rs n } := by
  have h : (nibbleEvents n).foldl (Tracker.sees ctrl) k =
      { Tracker.latch ctrl { k with d := n, e := true } with e := false } := rfl
  rw [h, Tracker.latch, if_neg hsync]

/-- A byte either loses the reading or leaves synchronisation and phase alone (R84, R85). -/
theorem View.execute_cases (ctrl : CtrlNextAc) (rs : Bool) (b : Byte) (v : View) :
    v.execute ctrl rs b = View.unknown ∨
    ((v.execute ctrl rs b).sync = v.sync ∧ (v.execute ctrl rs b).phase = v.phase) := by
  cases rs with
  | true =>
    refine .inr ?_
    simp only [View.execute, View.character, if_true]
    split <;> exact ⟨rfl, rfl⟩
  | false =>
    simp only [View.execute, View.instruction, Bool.false_eq_true, if_false]
    split_ifs
    · exact .inr ⟨rfl, rfl⟩
    · exact .inr ⟨rfl, rfl⟩
    · exact .inr ⟨rfl, rfl⟩
    · exact .inr ⟨rfl, rfl⟩
    · exact .inr ⟨rfl, rfl⟩
    · exact .inl rfl

section View

variable {v : View} (ctrl : CtrlNextAc) (r : Bool) (n : Nibble)

/-- The first half of a byte is kept (R83). -/
theorem View.latch_hi (hsync : v.sync = some .fourBit) (hphase : v.phase = some .hi) :
    v.latch ctrl r n = { v with hi := some n, rsHi := some r, phase := some .lo } := by
  simp [View.latch, hsync, hphase]

/-- The second half of a byte executes it (R83). -/
theorem View.latch_lo {h : Nibble} (hsync : v.sync = some .fourBit) (hphase : v.phase = some .lo) (hhi : v.hi = some h)
    (hrs : v.rsHi = some r) : v.latch ctrl r n = View.execute ctrl r (h ++ n) { v with phase := some .hi } := by
  simp [View.latch, hsync, hphase, hhi, hrs]

/-- The two halves of a byte under different register selects lose the reading (R83). -/
theorem View.latch_lo_mismatch {h : Nibble} (hsync : v.sync = some .fourBit) (hphase : v.phase = some .lo)
    (hhi : v.hi = some h) (hrs : v.rsHi = some (!r)) : v.latch ctrl r n = View.unknown := by
  cases r <;> simp [View.latch, hsync, hphase, hhi, hrs]

theorem View.latch_unknown : View.unknown.latch ctrl r n = View.unknown := rfl

/-- Both halves of a byte from phase HI on execute it (R83). -/
theorem View.latch_byte (b : Byte) (hsync : v.sync = some .fourBit) (hphase : v.phase = some .hi) :
    (v.latch ctrl r (highNibble b)).latch ctrl r (lowNibble b) =
      View.execute ctrl r b { v with hi := some (highNibble b), rsHi := some r, phase := some .hi } := by
  rw [View.latch_hi ctrl r _ hsync hphase]
  simp [View.latch, hsync, highNibble_append_lowNibble]

/-- After a latch the observer is synchronised still, or has lost its reading. -/
theorem View.latch_sync (hsync : v.sync = some .fourBit) :
    (v.latch ctrl r n).sync = some .fourBit ∨ v.latch ctrl r n = View.unknown := by
  simp only [View.latch, hsync]
  split
  · exact .inl rfl
  · next h rh _ _ _ =>
    split
    · rcases View.execute_cases ctrl rh (h ++ n) { v with sync := some .fourBit, phase := some .hi } with hu | ⟨hkept, -⟩
      · exact .inr hu
      · exact .inl hkept
    · exact .inr rfl
  · exact .inr rfl

theorem View.latch_sync_ne_unsync (hsync : v.sync = some .fourBit) : (v.latch ctrl r n).sync ≠ some .unsync := by
  rcases View.latch_sync ctrl r n hsync with h | h <;> simp [h, View.unknown]

end View

/-- A full byte is its two nibbles under one register select (R71, R150). -/
theorem foldl_sees_byteEvents (ctrl : CtrlNextAc) (k : Tracker) (isData : Bool) (b : Byte)
    (hsync : k.view.sync = some .fourBit) :
    (byteEvents isData b).foldl (Tracker.sees ctrl) k =
      { k with rs := isData, d := lowNibble b, e := false,
               view := (k.view.latch ctrl isData (highNibble b)).latch ctrl isData (lowNibble b) } := by
  have hbyte : byteEvents isData b =
      .pin (.rs isData) :: (nibbleEvents (highNibble b) ++ nibbleEvents (lowNibble b)) := rfl
  have hrs : Tracker.sees ctrl k (.pin (.rs isData)) = { k with rs := isData } := rfl
  have hhigh := foldl_sees_nibbleEvents ctrl { k with rs := isData } (highNibble b) (by simp [hsync])
  rw [hbyte, List.foldl_cons, List.foldl_append, hrs, hhigh]
  exact foldl_sees_nibbleEvents ctrl _ (lowNibble b) (View.latch_sync_ne_unsync ctrl isData _ hsync)

/-- A synchronised reading is the tracker's own view (R86). -/
theorem Tracker.reading_synchronised {k : Tracker} (h : k.reading.sync = some .fourBit) :
    k.reading = k.view ∧ k.poisoned = false ∧ k.cfg.conforming = true := by
  unfold Tracker.reading at h ⊢
  split at h
  · simp [View.unknown] at h
  · simp_all

/-- A byte command that runs to completion shows a synchronised observer its two nibbles. -/
theorem step_latches_byte {ctl : Controller} {w : Word} {i : Instr} {isData : Bool} {b : Byte} (hs : s.TraceAgrees)
    (ha : s.Accepting w) (hwait : s.hostWait = .untilReady) (hd : decode w = .ok i) (hbyte : byteOf i = some (isData, b))
    (hc : checkOf s i = .ok) (hsync : (s.controller ctl).sync = some .fourBit) :
    ∃ t, step s = .next t ∧ t.controller ctl =
      ((s.controller ctl).latch ctl.nextAc isData (highNibble b)).latch ctl.nextAc isData (lowNibble b) := by
  refine ⟨_, step_completes ha hwait hd hc, ?_⟩
  obtain ⟨hview, hpoisoned, hconf⟩ := Tracker.reading_synchronised hsync
  have hi : i ≠ .init := by
    rintro rfl
    cases hbyte
  have hview' : (track ctl s.cfg s.trace).view.sync = some .fourBit := by rw [← hview]; exact hsync
  have hseen := foldl_sees_byteEvents ctl.nextAc { (track ctl s.cfg s.trace).scene with initClean := false } isData b hview'
  have hscene := track_completed (ctl := ctl) hs ha.word hd
  rw [Tracker.scene_onAccept _ hd hi, bodyOf_events_byte s.cfg i isData b hbyte, hseen] at hscene
  have hcfg : ((s.accepted.performAll (bodyOf s.cfg i)).elapse.complete .ok).cfg = s.cfg := by simp [State.complete]
  rw [State.controller, observe, hcfg, ← Tracker.scene_reading, hscene, State.controller, observe, hview]
  simp [Tracker.onDone, Tracker.reading, Tracker.scene, hpoisoned, hconf]

/-- Settles O56: the two nibbles of the command, latched in phase HI or LO. -/
theorem byteCommandsReachTheController : Obligations.ByteCommandsReachTheController := by
  unfold Obligations.ByteCommandsReachTheController
  intro s ctl w i isData b hs ha hwait hd hbyte hc hsync
  obtain ⟨t, hstep, hlatched⟩ := step_latches_byte hs ha hwait hd hbyte hc hsync
  refine ⟨fun hphase => ⟨t, hstep, ?_⟩, fun h hphase hhi hrs => ⟨t, _, hstep, rfl, ?_⟩,
    fun h hphase hhi hrs => ⟨t, hstep, ?_⟩⟩
  · rw [hlatched, View.latch_byte _ _ _ hsync hphase]
    rfl
  · rw [hlatched, View.latch_lo _ _ _ hsync hphase hhi hrs]
    rcases View.execute_cases ctl.nextAc isData (h ++ b.extractLsb' 4 4) { s.controller ctl with phase := some .hi } with
      hlost | ⟨hsync', hphase'⟩
    · refine ⟨fun hfour => by simp [hlost, View.unknown] at hfour, fun _ => ?_⟩
      exact (congrArg (View.latch ctl.nextAc isData (lowNibble b)) hlost).trans (View.latch_unknown _ _ _)
    · exact ⟨fun hfour => View.latch_hi _ _ _ hfour hphase', fun hne => absurd (hsync'.trans hsync) hne⟩
  · rw [hlatched, View.latch_lo_mismatch _ _ _ hsync hphase hhi hrs, View.latch_unknown]

end Sys2Proof.Machine
end

section
/-! The observer's bytes and its DDRAM: what an instruction and a character byte do (R84, R85), and the canonical form
on every trace (R60, R80). -/

namespace Sys2Proof.Machine

variable {s t : State}

/-! ### Instruction and character bytes -/

theorem View.instruction_clear (v : View) :
    v.instruction 0x01#8 = { v with ddram := Memory.fill 0x20#8, ac := some 0#7 } := rfl

theorem View.instruction_functionSet (v : View) :
    v.instruction 0x28#8 = { v with mode := { v.mode with function := some 0x28#8 } } := rfl

theorem View.instruction_displayOn (v : View) :
    v.instruction 0x0C#8 = { v with mode := { v.mode with display := some 0x0C#8 } } := rfl

theorem View.instruction_entryMode (v : View) :
    v.instruction 0x06#8 = { v with mode := { v.mode with entry := some 0x06#8 } } := rfl

/-- A byte with bit 7 set puts its low 7 bits in AC (R84). -/
theorem View.instruction_setDdram (v : View) (a : DdramAddr) : v.instruction (1#1 ++ a) = { v with ac := some a } := by
  have hbyte : ∀ a : DdramAddr, 1#1 ++ a ≠ 0x01#8 ∧ (1#1 ++ a : Byte).getLsbD 7 = true ∧
      (1#1 ++ a : Byte).extractLsb' 0 7 = a := by decide
  obtain ⟨hclear, hbit, haddr⟩ := hbyte a
  simp [View.instruction, hclear, hbit, haddr]

/-- Any other instruction byte loses the whole view (R84). -/
theorem View.instruction_other (v : View) {b : Byte} (hlow : b.toNat < 0x80) (hclear : b ≠ 0x01#8)
    (hfunction : b ≠ 0x28#8) (hdisplay : b ≠ 0x0C#8) (hentry : b ≠ 0x06#8) : v.instruction b = View.unknown := by
  have hbit : b.getLsbD 7 = false := Nat.testBit_lt_two_pow hlow
  simp only [View.instruction, hclear, hbit, hfunction, hdisplay, hentry, Bool.false_eq_true, if_false]

/-- Settles O52: the branches of `View.instruction`, one by one. -/
theorem instructionBytesAct : Obligations.InstructionBytesAct := by
  unfold Obligations.InstructionBytesAct
  exact fun v => ⟨fun a ha => by rw [v.instruction_clear]; exact Memory.read_fill _ a ha, rfl, v.instruction_setDdram,
    v.instruction_functionSet, v.instruction_displayOn, v.instruction_entryMode, fun _ => v.instruction_other⟩

/-- `next` under the entry mode 0x06, on numbers (R85). -/
theorem nextAc_entryMode (ctrl : CtrlNextAc) (a : DdramAddr) :
    nextAc ctrl (some 0x06#8) a =
      if a.toNat ≤ 0x26 ∨ (0x40 ≤ a.toNat ∧ a.toNat ≤ 0x66) then some (BitVec.ofNat 7 (a.toNat + 1))
      else ctrl.map (fun next => next a) := by
  have hsucc : a + 1#7 = BitVec.ofNat 7 (a.toNat + 1) := BitVec.eq_of_toNat_eq (by simp)
  simp [nextAc, BitVec.le_def, hsucc]

theorem View.character_of_ac (ctrl : CtrlNextAc) (b : Byte) {v : View} {a : DdramAddr} (h : v.ac = some a) :
    v.character ctrl b = { v with ddram := v.ddram.write a.toNat b, ac := nextAc ctrl v.mode.entry a } := by
  simp [View.character, h]

theorem View.character_of_ac_unknown (ctrl : CtrlNextAc) (b : Byte) {v : View} (h : v.ac = none) :
    v.character ctrl b = { v with ddram := Memory.unknown } := by
  simp [View.character, h]

/-- Settles O53: read after write in the DDRAM, and the cases of `next`. -/
theorem characterBytesAct : Obligations.CharacterBytesAct := by
  unfold Obligations.CharacterBytesAct
  refine fun ctrl v b => ⟨fun a ha => ?_, fun ha => ?_⟩
  · rw [View.character_of_ac ctrl b ha]
    refine ⟨Memory.read_write_same _ _ _, fun k hk => Memory.read_write_other _ _ hk, fun hmode hin => ?_,
      fun hmode hout => ?_, fun hmode => if_neg hmode⟩
    · simp only [hmode, nextAc_entryMode, if_pos hin]
    · simp only [hmode, nextAc_entryMode, if_neg hout]
  · rw [View.character_of_ac_unknown ctrl b ha]
    exact ⟨fun _ => rfl, ha⟩

/-! ### The observed DDRAM stays canonical -/

theorem View.instruction_wf (b : Byte) {v : View} (h : v.ddram.wf = true) : (v.instruction b).ddram.wf = true := by
  unfold View.instruction
  split_ifs
  exacts [Memory.wf_fill _, h, h, h, h, rfl]

/-- A character byte writes at a 7-bit address. -/
theorem View.character_wf (ctrl : CtrlNextAc) (b : Byte) {v : View} (h : v.ddram.wf = true) :
    (v.character ctrl b).ddram.wf = true := by
  cases ha : v.ac with
  | some a => rw [View.character_of_ac ctrl b ha]; exact Memory.wf_write _ _ _ h a.isLt
  | none => rw [View.character_of_ac_unknown ctrl b ha]; rfl

theorem View.execute_wf (ctrl : CtrlNextAc) (rs : Bool) (b : Byte) {v : View} (h : v.ddram.wf = true) :
    (v.execute ctrl rs b).ddram.wf = true := by
  cases rs with
  | true => exact View.character_wf ctrl b h
  | false => exact View.instruction_wf b h

theorem View.latch_wf (ctrl : CtrlNextAc) (r : Bool) (n : Nibble) {v : View} (h : v.ddram.wf = true) :
    (v.latch ctrl r n).ddram.wf = true := by
  unfold View.latch
  split
  · exact h
  · exact h
  · split <;> exact h
  · split
    · exact h
    · split
      · exact View.execute_wf ctrl _ _ h
      · rfl
    · rfl

section Tracker

variable {k : Tracker}

/-- The DDRAM in the tracker's view has its canonical form. -/
def Tracker.Canonical (k : Tracker) : Prop := k.view.ddram.wf = true

theorem Tracker.poison_canonical (k : Tracker) : k.poison.Canonical := rfl

theorem Tracker.Canonical.checkHolds (h : k.Canonical) (n : Time) : (k.checkHolds n).Canonical := by
  unfold Tracker.checkHolds
  split
  · exact h
  · exact k.poison_canonical

theorem Tracker.Canonical.onPin (h : k.Canonical) (ctrl : CtrlNextAc) (p : PinWrite) : (k.onPin ctrl p).Canonical := by
  match p with
  | .rs _ | .d _ | .e true => exact h
  | .e false =>
    simp only [Tracker.onPin, Tracker.latch]
    split_ifs
    · exact h
    · exact View.latch_wf ctrl _ _ h
    · exact h

theorem Tracker.Canonical.onDone (h : k.Canonical) (r : ResultCode) : (k.onDone r).Canonical := by
  unfold Tracker.onDone
  split <;> exact h

theorem Tracker.Canonical.onAccept (h : k.Canonical) (supplyUp : ℚ) (n : Time) (w : Word) :
    (k.onAccept supplyUp n w).Canonical := by
  unfold Tracker.onAccept
  split
  · split_ifs
    · exact h
    · exact k.poison_canonical
    · exact h
  · exact h

theorem Tracker.Canonical.onEvent (h : k.Canonical) (ctl : Controller) (ev : Time × Event) :
    (k.onEvent ctl ev).Canonical := by
  obtain ⟨n, ev⟩ := ev
  cases ev with
  | accept w => exact h.onAccept ctl.supplyUp n w
  | pin p => exact Tracker.Canonical.onPin (k := (k.checkHolds n).pass n) (h.checkHolds n) ctl.nextAc p
  | done r =>
    cases r with
    | ok => exact Tracker.Canonical.onDone (k := (k.checkHolds n).pass n) (h.checkHolds n) .ok
    | invalidArgument | illegalCommand | notInitialized | configError => exact Tracker.Canonical.onDone (k := k.pass n) h _
  | reset c => rfl

theorem Tracker.Canonical.reading (h : k.Canonical) : k.reading.ddram.wf = true := by
  unfold Tracker.reading
  split
  · rfl
  · exact h

end Tracker

theorem track_canonical (ctl : Controller) (cfg : Cfg) (tr : Trace) : (track ctl cfg tr).Canonical := by
  induction tr using List.reverseRecOn with
  | nil => rfl
  | append_singleton tr ev ih => exact track_append_singleton ctl cfg tr ev.1 ev.2 ▸ ih.onEvent ctl ev

/-- Settles O54: the canonical form holds before the first event, and every event keeps it. -/
theorem observedDdramStaysCanonical : Obligations.ObservedDdramStaysCanonical := by
  unfold Obligations.ObservedDdramStaysCanonical
  exact fun ctl cfg tr => (track_canonical ctl cfg tr).reading

end Sys2Proof.Machine
end

section
/-! What a SENDN and an INIT make of the controller (R87, R179), and that a busy engine completes (R227, R255). -/

namespace Sys2Proof.Machine

variable {s t : State}

/-! ### RS as the observer sees it -/

section Tracker

variable (k : Tracker)

@[simp] theorem Tracker.checkHolds_rs (n : Time) : (k.checkHolds n).rs = k.rs := by
  unfold Tracker.checkHolds
  split <;> rfl

@[simp] theorem Tracker.pass_rs (n : Time) : (k.pass n).rs = k.rs := rfl

@[simp] theorem Tracker.latch_rs (ctrl : CtrlNextAc) : (k.latch ctrl).rs = k.rs := by
  unfold Tracker.latch
  split <;> rfl

theorem Tracker.onPin_rs (ctrl : CtrlNextAc) (p : PinWrite) :
    (k.onPin ctrl p).rs = (rsWritten (.pin p)).getD k.rs := by
  match p with
  | .rs _ | .d _ | .e true => rfl
  | .e false =>
    simp only [Tracker.onPin]
    split <;> simp [rsWritten]

@[simp] theorem Tracker.onDone_rs (r : ResultCode) : (k.onDone r).rs = k.rs := by
  unfold Tracker.onDone
  split <;> rfl

@[simp] theorem Tracker.onAccept_rs (supplyUp : ℚ) (n : Time) (w : Word) : (k.onAccept supplyUp n w).rs = k.rs := by
  unfold Tracker.onAccept
  split
  · split_ifs <;> rfl
  · rfl

/-- The observer's RS moves with the events that write it (R16). -/
theorem Tracker.onEvent_rs (ctl : Controller) (n : Time) (ev : Event) :
    (k.onEvent ctl (n, ev)).rs = (rsWritten ev).getD k.rs := by
  cases ev with
  | accept w => simp [Tracker.onEvent, rsWritten]
  | pin p => simp [Tracker.onEvent, Tracker.onPin_rs]
  | done r => cases r <;> simp [Tracker.onEvent, rsWritten]
  | reset c => rfl

end Tracker

/-- The observer's RS is the level of RS at the end of the trace (R16). -/
theorem track_rs (ctl : Controller) (c : Cfg) (tr : Trace) : (track ctl c tr).rs = (levelsOf tr).rs := by
  induction tr using List.reverseRecOn with
  | nil => rfl
  | append_singleton tr ev ih =>
    rw [track_append_singleton ctl c tr ev.1 ev.2, Tracker.onEvent_rs, levelsOf_append_singleton tr ev.1 ev.2,
      Levels.after_eq, ih]

/-! ### SENDN -/

theorem checkOf_init_ok (hcfg : s.cfgOk = true) : checkOf s .init = .ok := by
  simp [checkOf, State.acceptCheck, hcfg]

theorem checkOf_sendn_ok (n : Nibble) (hcfg : s.cfgOk = true) : checkOf s (.sendn n) = .ok := by
  simp [checkOf, State.acceptCheck, hcfg]

/-- A SENDN that runs to completion shows a synchronised observer its nibble, under the present RS (R87). -/
theorem step_latches_nibble {ctl : Controller} {n : Nibble} (hs : s.TraceAgrees)
    (ha : s.Accepting (encode (.sendn n))) (hwait : s.hostWait = .untilReady) (hcfg : s.cfgOk = true)
    (hsync : (s.controller ctl).sync = some .fourBit) :
    ∃ t, step s = .next t ∧ t.controller ctl = (s.controller ctl).latch ctl.nextAc s.rs n := by
  have hd := decode_encode (.sendn n)
  refine ⟨_, step_completes ha hwait hd (checkOf_sendn_ok n hcfg), ?_⟩
  obtain ⟨hview, hpoisoned, hconf⟩ := Tracker.reading_synchronised hsync
  have hne : (track ctl s.cfg s.trace).view.sync ≠ some .unsync := by
    rw [← hview]
    exact fun h => by cases hsync.symm.trans h
  have hrs : (track ctl s.cfg s.trace).rs = s.rs := by rw [track_rs, hs.levels]
  have hseen := foldl_sees_nibbleEvents ctl.nextAc { (track ctl s.cfg s.trace).scene with initClean := false } n hne
  have hscene := track_completed (ctl := ctl) hs ha.word hd
  rw [Tracker.scene_onAccept _ hd (by simp), bodyOf_events_sendn, hseen] at hscene
  have hcfg' : ((s.accepted.performAll (bodyOf s.cfg (.sendn n))).elapse.complete .ok).cfg = s.cfg := by
    simp [State.complete]
  rw [State.controller, observe, hcfg', ← Tracker.scene_reading, hscene, State.controller, observe, hview, ← hrs]
  simp [Tracker.onDone, Tracker.reading, Tracker.scene, hpoisoned, hconf]

/-- Settles O57: one latched nibble, in phase HI or LO. -/
theorem sendnFlipsTheNibblePhase : Obligations.SendnFlipsTheNibblePhase := by
  unfold Obligations.SendnFlipsTheNibblePhase
  intro s ctl n hs ha hwait hcfg hsync
  obtain ⟨t, hstep, hlatched⟩ := step_latches_nibble hs ha hwait hcfg hsync
  refine ⟨fun hphase => ⟨t, hstep, ?_⟩, fun h hphase hhi hrs => ⟨t, hstep, ?_⟩⟩
  · rw [hlatched, View.latch_hi _ _ _ hsync hphase]
  · rw [hlatched, View.latch_lo _ _ _ hsync hphase hhi hrs]

/-! ### INIT -/

/-- The view with synchronisation just begun (R82). -/
def View.syncing (v : View) : View := { v with sync := some (.syncing 0) }

/-- The view with synchronisation reached (R82). -/
def View.synchronised (v : View) : View := { v with sync := some .fourBit, phase := some .hi }

/-- Whatever was known before, what INIT leaves of the controller: the fixed mode, blank, cursor at 0x00 (R179). -/
def View.afterInit : View where
  sync := some .fourBit
  phase := some .hi
  hi := some 0x0#4
  rsHi := some false
  ac := some 0#7
  ddram := Memory.fill 0x20#8
  mode := ⟨some 0x28#8, some 0x0C#8, some 0x06#8⟩

/-- No latch makes the observer unsynchronised (R82, R83). -/
theorem View.latch_ne_unsync (ctrl : CtrlNextAc) (r : Bool) (n : Nibble) {v : View} (h : v.sync ≠ some .unsync) :
    (v.latch ctrl r n).sync ≠ some .unsync := by
  match hsync : v.sync with
  | none => simp [View.latch, hsync]
  | some .unsync => exact absurd hsync h
  | some (.syncing k) =>
    simp only [View.latch, hsync]
    split <;> simp
  | some .fourBit => exact View.latch_sync_ne_unsync ctrl r n hsync

theorem View.syncing_ne_unsync (v : View) : v.syncing.sync ≠ some .unsync := by simp [View.syncing]

/-- Four latches complete synchronisation, whatever their nibbles (R82). -/
theorem View.latch_syncing (ctrl : CtrlNextAc) (r : Bool) (n₁ n₂ n₃ n₄ : Nibble) (v : View) :
    (((v.syncing.latch ctrl r n₁).latch ctrl r n₂).latch ctrl r n₃).latch ctrl r n₄ = v.synchronised := rfl

/-- The tracker right after a nibble `d` under the register select `r`, with view `v`: E is low again. -/
def Tracker.shows (k : Tracker) (r : Bool) (d : Nibble) (v : View) : Tracker :=
  { k with rs := r, d := d, e := false, view := v }

/-- Four raw nibbles synchronise the controller, whatever was known of it (R82). -/
theorem foldl_sees_rawNibbles (ctrl : CtrlNextAc) (k : Tracker) (n₁ n₂ n₃ n₄ : Nibble) {v : View}
    (hview : k.view = v.syncing) :
    (nibbleEvents n₄).foldl (Tracker.sees ctrl) ((nibbleEvents n₃).foldl (Tracker.sees ctrl)
      ((nibbleEvents n₂).foldl (Tracker.sees ctrl) ((nibbleEvents n₁).foldl (Tracker.sees ctrl) k))) =
      k.shows k.rs n₄ v.synchronised := by
  have h₀ : k.view.sync ≠ some .unsync := hview ▸ v.syncing_ne_unsync
  have h₁ := View.latch_ne_unsync ctrl k.rs n₁ h₀
  have h₂ := View.latch_ne_unsync ctrl k.rs n₂ h₁
  have h₃ := View.latch_ne_unsync ctrl k.rs n₃ h₂
  rw [foldl_sees_nibbleEvents ctrl k n₁ h₀, foldl_sees_nibbleEvents ctrl _ n₂ h₁, foldl_sees_nibbleEvents ctrl _ n₃ h₂,
    foldl_sees_nibbleEvents ctrl _ n₄ h₃, hview, View.latch_syncing]
  rfl

/-- A full instruction byte from phase HI on is executed (R83, R84). -/
theorem foldl_sees_instruction (ctrl : CtrlNextAc) (k : Tracker) (r : Bool) (d : Nibble) (b : Byte) {v : View}
    (hsync : v.sync = some .fourBit) (hphase : v.phase = some .hi) :
    (byteEvents false b).foldl (Tracker.sees ctrl) (k.shows r d v) =
      k.shows false (lowNibble b)
        (View.instruction b { v with hi := some (highNibble b), rsHi := some false, phase := some .hi }) := by
  rw [foldl_sees_byteEvents ctrl (k.shows r d v) false b hsync]
  exact congrArg (k.shows false (lowNibble b)) (View.latch_byte ctrl false b hsync hphase)

/-- INIT's events: RS low, synchronisation, and the four instruction bytes, executed in turn (R170, R179). -/
theorem foldl_sees_initEvents (ctrl : CtrlNextAc) (k : Tracker) {v : View} (hview : k.view = v.syncing) :
    initEvents.foldl (Tracker.sees ctrl) k = k.shows false 0x1#4 View.afterInit := by
  have hrs : List.foldl (Tracker.sees ctrl) k [.pin (.rs false)] = { k with rs := false } := rfl
  simp only [initEvents, List.foldl_append, hrs]
  rw [foldl_sees_rawNibbles (v := v) ctrl { k with rs := false } _ _ _ _ hview, foldl_sees_instruction,
    foldl_sees_instruction, foldl_sees_instruction, foldl_sees_instruction]
  all_goals rfl

/-- The acceptance of an INIT begins synchronisation, where the power-on wait is over (R82, R244). -/
theorem Tracker.scene_onAccept_init (k : Tracker) {w : Word} (hd : decode w = .ok .init) (hcfg : k.cfg.pinsOk = true)
    {supplyUp : ℚ} {n : Time} (hpower : powerOnMet k.cfg supplyUp n = true) :
    (k.onAccept supplyUp n w).scene = { k.scene with view := k.view.syncing, initClean := true } := by
  simp [Tracker.onAccept, hd, hcfg, hpower, Tracker.scene, View.syncing]

/-- An INIT that runs to completion no earlier than the power-on wait allows leaves the fixed mode (R179). -/
theorem step_init_controller {ctl : Controller} (hs : s.TraceAgrees) (ha : s.Accepting 0x1000#16)
    (hwait : s.hostWait = .untilReady) (hcfg : s.cfgOk = true) (hconf : s.cfg.conforming = true)
    (hpower : s.PowerOnRespected ctl.supplyUp) :
    ∃ t, step s = .next t ∧ t.controller ctl = View.afterInit := by
  have hd : decode 0x1000#16 = .ok .init := decode_encode .init
  refine ⟨_, step_completes ha hwait hd (checkOf_init_ok hcfg), ?_⟩
  have htrack : (track ctl s.cfg s.trace).cfg = s.cfg := (track_cfg _ _ _).trans hs.config
  have hpins : (track ctl s.cfg s.trace).cfg.pinsOk = true := by
    rw [htrack]
    exact hcfg
  have hpower' : powerOnMet (track ctl s.cfg s.trace).cfg ctl.supplyUp s.accepted.now = true := by
    rw [htrack, s.accepted_now, ← s.latch_now]
    exact hpower
  have hscene := track_completed (ctl := ctl) hs ha.word hd
  rw [Tracker.scene_onAccept_init _ hd hpins hpower', bodyOf_events_init,
    foldl_sees_initEvents ctl.nextAc _ rfl] at hscene
  have hcfg' : ((s.accepted.performAll (bodyOf s.cfg .init)).elapse.complete .ok).cfg = s.cfg := by
    simp [State.complete]
  rw [State.controller, observe, hcfg', ← Tracker.scene_reading, hscene]
  simp [Tracker.onDone, Tracker.reading, Tracker.scene, Tracker.shows, htrack, hconf]

/-- Settles O55: the reading after INIT is `View.afterInit`. -/
theorem initPutsTheControllerInTheFixedMode : Obligations.InitPutsTheControllerInTheFixedMode := by
  unfold Obligations.InitPutsTheControllerInTheFixedMode
  intro s ctl hs ha hwait hcfg hconf hpower
  obtain ⟨t, hstep, hview⟩ := step_init_controller hs ha hwait hcfg hconf hpower
  refine ⟨t, hstep, ?_⟩
  rw [hview]
  exact ⟨rfl, rfl, rfl, rfl, Memory.read_fill 0x20#8⟩

/-! ### A busy engine completes -/

theorem run_succ (n : Nat) (h : step s = .next t) :
    Host.Core.run Sys2Proof.core (n + 1) s = Host.Core.run Sys2Proof.core n t := by
  simp only [Host.Core.run, Host.Check.core_step, h]

theorem run_one (h : step s = .next t) : Host.Core.run Sys2Proof.core 1 s = .next t := run_succ 0 h

/-- A polling host sees one primitive, with the holds before it, in one step or two (R38). -/
theorem run_elapse_perform {p : Prim} (hrst : s.rst = false) (hbusy : s.busy = true) (hwait : s.hostWait = .poll)
    (hp : s.exp[s.upc]? = some p) :
    ∃ m, m ≤ 2 ∧ ∀ n, Host.Core.run Sys2Proof.core (n + m) s = Host.Core.run Sys2Proof.core n (s.elapse.perform p) := by
  have hperform : step s.elapse = .next (s.elapse.perform p) := step_performs hrst hbusy hwait rfl hp
  by_cases hhold : s.hold = 0
  · rw [State.elapse_of_hold_zero hhold] at hperform ⊢
    exact ⟨1, by omega, fun n => run_succ n hperform⟩
  · exact ⟨2, le_rfl, fun n => (run_succ (n + 1) (step_elapses hrst hbusy hwait hhold)).trans (run_succ n hperform)⟩

/-- A polling host sees what is left of a command in at most two steps a primitive. -/
theorem run_completes {body : List Prim} {r : ResultCode} (hrst : s.rst = false) (hbusy : s.busy = true)
    (hwait : s.hostWait = .poll) (hexp : s.exp.drop s.upc = body ++ [.complete r]) (hplain : body.all Prim.plain = true) :
    ∃ n, n ≤ 2 * (body.length + 1) ∧
      Host.Core.run Sys2Proof.core n s = .next ((s.performAll body).elapse.complete r) := by
  induction body generalizing s with
  | nil =>
    obtain ⟨m, hm, hone⟩ := run_elapse_perform hrst hbusy hwait (p := .complete r) (by simpa using congrArg List.head? hexp)
    exact ⟨0 + m, by simpa using hm, hone 0⟩
  | cons p body ih =>
    simp only [List.all_cons, Bool.and_eq_true] at hplain
    obtain ⟨hp, hbody⟩ := hplain
    obtain ⟨m, hm, hone⟩ := run_elapse_perform hrst hbusy hwait (p := p) (by simpa using congrArg List.head? hexp)
    obtain ⟨hupc, hexp', hbusy', -, -⟩ := s.elapse.perform_plain p hp
    obtain ⟨n, hn, hrest⟩ := ih (s := s.elapse.perform p) (by simpa using hrst) (hbusy'.trans hbusy) (by simpa using hwait)
      (by simpa [hupc, hexp'] using congrArg List.tail hexp) hbody
    exact ⟨n + m, by simp only [List.length_cons]; omega, (hone n).trans hrest⟩

/-- Settles O49: both hosts see what is left of the command run to its `Complete`, the waiting one in one step. -/
theorem busyEngineCompletes : Obligations.BusyEngineCompletes := by
  unfold Obligations.BusyEngineCompletes
  intro s hs hbusy hrst
  obtain ⟨body, r, hexp, hplain⟩ := planShape_ends _ _ (hs.running hbusy)
  have hleft : s.exp.length - s.upc = body.length + 1 := by simpa using congrArg List.length hexp
  have hwhole : s.runToCompletion = .next ((s.performAll body).elapse.complete r) := runToCompletion_of_ends hexp hplain
  have hrun : ∃ n, n ≤ 2 * (body.length + 1) ∧
      Host.Core.run Sys2Proof.core n s = .next ((s.performAll body).elapse.complete r) := by
    cases hwait : s.hostWait with
    | poll => exact run_completes hrst hbusy hwait hexp hplain
    | untilReady =>
      have hstep : step s = s.runToCompletion := by simp [step, hrst, hbusy, State.continueCommand, hwait]
      exact ⟨1, by omega, run_one (hstep.trans hwhole)⟩
  obtain ⟨n, hn, hrun⟩ := hrun
  exact ⟨n, _, hleft ▸ hn, hrun, rfl, rfl, (reaches_of_runPrims _ hbusy rfl hwhole).untouched⟩

end Sys2Proof.Machine
end

section
/-! Decoding by opcode (R101 to R106) and words as numbers (R110): decoder, encoder, assembler, and what the engine answers
to a word that spells no command. -/

namespace Sys2Proof.Machine

variable {w : Word}

/-! ### The word of a command, and the spec's own words -/

/-- Settles O8: every command's word decodes to it, so every well-formed one's does. -/
theorem decodeOfEncodeIsTheCommand : Obligations.DecodeOfEncodeIsTheCommand := by
  unfold Obligations.DecodeOfEncodeIsTheCommand
  exact fun i _ => decode_encode i

/-- Settles O4: the table's words, run through the decoder. -/
theorem specWordsDecode : Obligations.SpecWordsDecode := by
  unfold Obligations.SpecWordsDecode
  decide

/-! ### Decoding, opcode by opcode -/

/-- The opcodes of R101, and the reserved ones. -/
theorem opField_cases (w : Word) :
    opField w = 1#4 ∨ opField w = 2#4 ∨ opField w = 3#4 ∨ opField w = 4#4 ∨ opField w = 5#4 ∨ opField w = 6#4 ∨
    opReserved w = true := by
  unfold opReserved
  generalize opField w = o
  revert o
  decide

/-- Decoding reads the fields alone: the rows of R102 and the operands of R103 as conditions on them. -/
theorem decode_eq_fields (w : Word) : decode w =
    if opField w = 1#4 ∧ aField w = 0#4 ∧ bField w = 0#8 then .ok .init
    else if opField w = 2#4 ∧ aField w = 0#4 ∧ bField w = 0#8 then .ok .clear
    else if opField w = 3#4 then .ok (.setcur (aField w) (bField w))
    else if opField w = 4#4 ∧ aField w = 0#4 then .ok (.putc (bField w))
    else if opField w = 5#4 ∧ (aField w = 0#4 ∨ aField w = 1#4) then .ok (.sendb ((aField w).getLsbD 0) (bField w))
    else if opField w = 6#4 ∧ aField w = 0#4 then .ok (.sendn ((bField w).extractLsb' 0 4))
    else if opReserved w then .error .reservedOpcode
    else .error .reservedBits := by
  simp only [decode, rowInit_matches, rowClear_matches, rowSetcur_matches, rowPutc_matches, rowSendb_matches,
    rowSendn_matches, getLsbD_eight, lowNibble_word]

/-- A word with OP 1 is INIT, unless a reserved-zero bit is set (R102, R105); the next five say it of OP 2 to 6. -/
theorem decode_op1 (h : opField w = 1#4) :
    decode w = if aField w = 0#4 ∧ bField w = 0#8 then .ok .init else .error .reservedBits := by
  simp [decode_eq_fields, opReserved, h]

theorem decode_op2 (h : opField w = 2#4) :
    decode w = if aField w = 0#4 ∧ bField w = 0#8 then .ok .clear else .error .reservedBits := by
  simp [decode_eq_fields, opReserved, h]

theorem decode_op3 (h : opField w = 3#4) : decode w = .ok (.setcur (aField w) (bField w)) := by
  simp [decode_eq_fields, h]

theorem decode_op4 (h : opField w = 4#4) :
    decode w = if aField w = 0#4 then .ok (.putc (bField w)) else .error .reservedBits := by
  simp [decode_eq_fields, opReserved, h]

theorem decode_op5 (h : opField w = 5#4) :
    decode w = if aField w = 0#4 ∨ aField w = 1#4 then .ok (.sendb ((aField w).getLsbD 0) (bField w))
      else .error .reservedBits := by
  simp [decode_eq_fields, opReserved, h]

theorem decode_op6 (h : opField w = 6#4) :
    decode w = if aField w = 0#4 then .ok (.sendn ((bField w).extractLsb' 0 4)) else .error .reservedBits := by
  simp [decode_eq_fields, opReserved, h]

/-- The reserved opcodes are none of R101's. -/
theorem opReserved_ne (h : opReserved w = true) :
    opField w ≠ 1#4 ∧ opField w ≠ 2#4 ∧ opField w ≠ 3#4 ∧ opField w ≠ 4#4 ∧ opField w ≠ 5#4 ∧ opField w ≠ 6#4 := by
  unfold opReserved at h
  generalize opField w = o at h
  revert o
  decide

theorem decode_reserved (h : opReserved w = true) : decode w = .error .reservedOpcode := by
  simp [decode_eq_fields, h, opReserved_ne h]

/-! ### The rows of R102 -/

/-- The row of a command. -/
def rowOf : Instr → OpcodeRow
  | .init => rowInit
  | .clear => rowClear
  | .setcur _ _ => rowSetcur
  | .putc _ => rowPutc
  | .sendb _ _ => rowSendb
  | .sendn _ => rowSendn

theorem rowOf_mem (i : Instr) : rowOf i ∈ opcodeRows := by cases i <;> simp [rowOf, opcodeRows]

/-- The row of a decoded command, none for an illegal word. -/
def rowsOfDecoded : Except Illegal Instr → List OpcodeRow
  | .ok i => [rowOf i]
  | .error _ => []

theorem rowsOfDecoded_ite (p : Prop) [Decidable p] (i : Instr) (e : Illegal) :
    rowsOfDecoded (if p then .ok i else .error e) = if p then [rowOf i] else [] := by split <;> rfl

/-- At most one row matches: that of the command the word decodes to (R102). -/
theorem matching_rows (w : Word) : opcodeRows.filter (fun r => r.matches w) = rowsOfDecoded (decode w) := by
  simp only [opcodeRows, List.filter_cons, List.filter_nil, rowInit_matches, rowClear_matches, rowSetcur_matches,
    rowPutc_matches, rowSendb_matches, rowSendn_matches]
  rcases opField_cases w with h | h | h | h | h | h | h
  · simp [h, decode_op1, rowsOfDecoded_ite, rowOf]
  · simp [h, decode_op2, rowsOfDecoded_ite, rowOf]
  · simp [h, decode_op3, rowsOfDecoded, rowOf]
  · simp [h, decode_op4, rowsOfDecoded_ite, rowOf]
  · simp [h, decode_op5, rowsOfDecoded_ite, rowOf]
  · simp [h, decode_op6, rowsOfDecoded_ite, rowOf]
  · simp [decode_reserved h, opReserved_ne h, rowsOfDecoded]

/-- A word is the command of a row iff it matches the row (R102). -/
theorem decode_row_iff {r : OpcodeRow} (hr : r ∈ opcodeRows) (w : Word) :
    (∃ i, decode w = .ok i ∧ rowOf i = r) ↔ w &&& r.mask = r.pattern := by
  have h : r ∈ rowsOfDecoded (decode w) ↔ r.matches w = true := by rw [← matching_rows, List.mem_filter, and_iff_right hr]
  rw [← beq_iff_eq, ← OpcodeRow.matches, ← h]
  cases decode w with
  | ok i => simp [rowsOfDecoded, eq_comm]
  | error e => simp [rowsOfDecoded]

/-- A command is one of the six of R101. -/
theorem exists_instr {P : Instr → Prop} : (∃ i, P i) ↔
    P .init ∨ P .clear ∨ (∃ r c, P (.setcur r c)) ∨ (∃ c, P (.putc c)) ∨ (∃ d v, P (.sendb d v)) ∨ ∃ n, P (.sendn n) := by
  constructor
  · rintro ⟨i, hi⟩
    cases i with
    | init => exact .inl hi
    | clear => exact .inr (.inl hi)
    | setcur r c => exact .inr (.inr (.inl ⟨r, c, hi⟩))
    | putc c => exact .inr (.inr (.inr (.inl ⟨c, hi⟩)))
    | sendb d v => exact .inr (.inr (.inr (.inr (.inl ⟨d, v, hi⟩))))
    | sendn n => exact .inr (.inr (.inr (.inr (.inr ⟨n, hi⟩))))
  · rintro (h | h | ⟨r, c, h⟩ | ⟨c, h⟩ | ⟨d, v, h⟩ | ⟨n, h⟩) <;> exact ⟨_, h⟩

/-- Settles O5: the matching rows are the row of the decoded command, or none. -/
theorem wordIsCommandIffItMatchesItsRow : Obligations.WordIsCommandIffItMatchesItsRow := by
  unfold Obligations.WordIsCommandIffItMatchesItsRow
  intro w
  have row (i : Instr) : (∃ j, decode w = .ok j ∧ rowOf j = rowOf i) ↔ w &&& (rowOf i).mask = (rowOf i).pattern :=
    decode_row_iff (rowOf_mem i) w
  simp only [exists_instr, rowOf, rowInit, rowClear, rowSetcur, rowPutc, rowSendb, rowSendn] at row
  refine ⟨?_, ?_, ?_, ?_, ?_, ?_, ?_, ?_⟩
  · simpa using row .init
  · simpa using row .clear
  · simpa using row (.setcur 0#4 0#8)
  · simpa using row (.putc 0#8)
  · simpa using row (.sendb false 0#8)
  · simpa using row (.sendn 0#4)
  · rw [matching_rows]
    cases decode w <;> simp [rowsOfDecoded]
  · rw [matching_rows]
    cases decode w <;> simp [rowsOfDecoded]

/-! ### Why a word is illegal -/

theorem ite_ok_eq_error {p : Prop} [Decidable p] {i : Instr} {e e' : Illegal} :
    ((if p then .ok i else .error e : Except Illegal Instr) = .error e') ↔ ¬ p ∧ e = e' := by split <;> simp [*]

theorem ite_ok_eq_ok {p : Prop} [Decidable p] {i j : Instr} {e : Illegal} :
    ((if p then .ok i else .error e : Except Illegal Instr) = .ok j) ↔ p ∧ i = j := by split <;> simp [*]

theorem decode_eq_reservedOpcode (w : Word) : decode w = .error .reservedOpcode ↔ opReserved w = true := by
  rcases opField_cases w with h | h | h | h | h | h | h
  · simp [decode_op1 h, ite_ok_eq_error, opReserved, h]
  · simp [decode_op2 h, ite_ok_eq_error, opReserved, h]
  · simp [decode_op3 h, opReserved, h]
  · simp [decode_op4 h, ite_ok_eq_error, opReserved, h]
  · simp [decode_op5 h, ite_ok_eq_error, opReserved, h]
  · simp [decode_op6 h, ite_ok_eq_error, opReserved, h]
  · simp [decode_reserved h, h]

/-- The reserved-zero bits of R105, on the fields. -/
theorem decode_eq_reservedBits (w : Word) : decode w = .error .reservedBits ↔
    ((opField w = 1#4 ∨ opField w = 2#4) ∧ ¬ (aField w = 0#4 ∧ bField w = 0#8)) ∨
    ((opField w = 4#4 ∨ opField w = 6#4) ∧ aField w ≠ 0#4) ∨
    (opField w = 5#4 ∧ ¬ (aField w = 0#4 ∨ aField w = 1#4)) := by
  rcases opField_cases w with h | h | h | h | h | h | h
  · simp [decode_op1 h, h]
  · simp [decode_op2 h, h]
  · simp [decode_op3 h, h]
  · simp [decode_op4 h, h]
  · simp [decode_op5 h, h]
  · simp [decode_op6 h, h]
  · simp [decode_reserved h, opReserved_ne h]

theorem opField_toNat (w : Word) : (opField w).toNat = w.toNat / 0x1000 := by
  have := w.isLt
  simp [opField, Nat.shiftRight_eq_div_pow]
  omega

theorem aField_toNat (w : Word) : (aField w).toNat = w.toNat / 0x100 % 0x10 := by
  simp [aField, Nat.shiftRight_eq_div_pow]

theorem bField_toNat (w : Word) : (bField w).toNat = w.toNat % 0x100 := by
  simp [bField]

/-- Settles O6: the conditions on the fields are conditions on their numbers. -/
theorem illegalWordsAreReservedOpcodesAndReservedBits : Obligations.IllegalWordsAreReservedOpcodesAndReservedBits := by
  unfold Obligations.IllegalWordsAreReservedOpcodesAndReservedBits
  intro w
  constructor
  · simp [decode_eq_reservedOpcode, opReserved, BitVec.le_def, ← BitVec.toNat_inj, opField_toNat]
  · rw [decode_eq_reservedBits]
    simp only [ne_eq, ← BitVec.toNat_inj, opField_toNat, aField_toNat, bField_toNat, BitVec.toNat_ofNat]
    omega

/-! ### The word of a command, as a number -/

/-- Side by side is a sum, on numbers. -/
theorem append_toNat {m n : Nat} (x : BitVec m) (y : BitVec n) : (x ++ y).toNat = x.toNat * 2 ^ n + y.toNat := by
  rw [BitVec.toNat_append, ← Nat.shiftLeft_add_eq_or_of_lt y.isLt, Nat.shiftLeft_eq]

theorem encode_setcur_toNat (row : Nibble) (column : Byte) :
    (encode (.setcur row column)).toNat = 0x3000 + row.toNat * 0x100 + column.toNat := by
  simp only [encode, append_toNat, BitVec.toNat_ofNat]
  omega

theorem encode_putc_toNat (char : Byte) : (encode (.putc char)).toNat = 0x4000 + char.toNat := by
  simp only [encode, append_toNat, BitVec.toNat_ofNat]
  omega

theorem encode_sendb_toNat (isData : Bool) (value : Byte) :
    (encode (.sendb isData value)).toNat = 0x5000 + (if isData then 0x100 else 0) + value.toNat := by
  cases isData <;> simp only [encode, append_toNat, BitVec.toNat_ofNat, BitVec.toNat_ofBool] <;> simp

theorem decode_ofNat {n : Nat} {i : Instr} (h : (encode i).toNat = n) : decode (BitVec.ofNat 16 n) = .ok i := by
  rw [← h, BitVec.ofNat_toNat, BitVec.setWidth_eq, decode_encode]

/-- Whatever SENDN's bits 7:4 hold, its operand is the low nibble (R106). -/
theorem decode_sendn (x n : Nibble) : decode (6#4 ++ 0#4 ++ (x ++ n)) = .ok (.sendn n) := by
  rw [decode_op6 (opField_append ..), aField_append, bField_append, if_pos rfl, BitVec.extractLsb'_append_eq_right]

/-- Settles O7: the numbers are the words of the commands, but for SENDN's bits 7:4. -/
theorem assemblerWordsDecodeToTheirOperands : Obligations.AssemblerWordsDecodeToTheirOperands := by
  unfold Obligations.AssemblerWordsDecodeToTheirOperands
  intro r n x b d
  refine ⟨decode_ofNat (encode_setcur_toNat r b), decode_ofNat (encode_putc_toNat b),
    decode_ofNat (encode_sendb_toNat d b), ?_⟩
  have hw : BitVec.ofNat 16 (0x6000 + x.toNat * 0x10 + n.toNat) = 6#4 ++ 0#4 ++ (x ++ n) := by
    rw [← BitVec.toNat_inj]
    simp only [append_toNat, BitVec.toNat_ofNat]
    omega
  rw [hw, decode_sendn]

/-! ### The command of a word, encoded again -/

theorem encode_sendn (nibble : Nibble) : encode (.sendn nibble) = 6#4 ++ 0#4 ++ (0#4 ++ nibble) := by
  rw [encode, BitVec.append_assoc]
  rfl

/-- Masking all but OP leaves OP (R100). -/
theorem and_opMask (w : Word) : w &&& 0xF000#16 = 0x6000#16 ↔ opField w = 6#4 := by
  have h := OpcodeRow.matches_iff ⟨0xF000#16, 0x6000#16⟩ w
  rw [OpcodeRow.matches, beq_iff_eq] at h
  rw [h, show opField 0xF000#16 = 0xF#4 from rfl, show aField 0xF000#16 = 0#4 from rfl,
    show bField 0xF000#16 = 0#8 from rfl, nibble_and_ones, BitVec.and_zero, BitVec.and_zero]
  exact ⟨fun h => h.1, fun h => ⟨h, rfl, rfl⟩⟩

/-- SENDN's ignored bits cleared (R106). -/
theorem and_sendnMask (w : Word) : w &&& 0xFF0F#16 = opField w ++ aField w ++ (0#4 ++ (bField w).extractLsb' 0 4) := by
  have hlow : bField w &&& 0x0F#8 = 0#4 ++ (bField w).extractLsb' 0 4 := by
    conv_lhs => rw [← highNibble_append_lowNibble (bField w), show (0x0F#8 : Byte) = 0#4 ++ 0xF#4 from rfl]
    rw [BitVec.and_append, BitVec.and_zero, nibble_and_ones, lowNibble]
  conv_lhs => rw [← word_fields w]
  exact (and_fields (opField w) (aField w) 0xF#4 0xF#4 (bField w) 0x0F#8).trans
    (by rw [nibble_and_ones, nibble_and_ones, hlow])

theorem encode_of_decode {i : Instr} (hd : decode w = .ok i) (h6 : opField w ≠ 6#4) : encode i = w := by
  refine Eq.trans ?_ (word_fields w)
  rcases opField_cases w with h | h | h | h | h | h | h
  · obtain ⟨⟨ha, hb⟩, rfl⟩ := ite_ok_eq_ok.mp ((decode_op1 h).symm.trans hd)
    rw [h, ha, hb]
    rfl
  · obtain ⟨⟨ha, hb⟩, rfl⟩ := ite_ok_eq_ok.mp ((decode_op2 h).symm.trans hd)
    rw [h, ha, hb]
    rfl
  · obtain rfl := Except.ok.inj ((decode_op3 h).symm.trans hd)
    rw [h]
    rfl
  · obtain ⟨ha, rfl⟩ := ite_ok_eq_ok.mp ((decode_op4 h).symm.trans hd)
    rw [h, ha]
    rfl
  · obtain ⟨ha, rfl⟩ := ite_ok_eq_ok.mp ((decode_op5 h).symm.trans hd)
    rcases ha with ha | ha <;> rw [h, ha] <;> rfl
  · exact absurd h h6
  · simp [decode_reserved h] at hd

theorem encode_of_decode_sendn {i : Instr} (hd : decode w = .ok i) (h : opField w = 6#4) : encode i = w &&& 0xFF0F#16 := by
  obtain ⟨ha, rfl⟩ := ite_ok_eq_ok.mp ((decode_op6 h).symm.trans hd)
  rw [encode_sendn, and_sendnMask, h, ha]

/-- Settles O9: the word of a command is its fields, and SENDN alone does not read all of them. -/
theorem encodeOfDecodeIsTheWord : Obligations.EncodeOfDecodeIsTheWord := by
  unfold Obligations.EncodeOfDecodeIsTheWord
  intro w i hd
  simp only [and_opMask]
  split
  case isTrue h => exact encode_of_decode_sendn hd h
  case isFalse h => exact encode_of_decode hd h

/-! ### The assembler -/

theorem assembleLine_eq_none (l : AsmLine) : assembleLine l = none ↔ l.wellFormed = false := by
  cases h : l.wellFormed <;> simp [assembleLine, h]

theorem encode_putc_ofNat {c : Nat} (h : c ≤ 255) : encode (.putc (BitVec.ofNat 8 c)) = BitVec.ofNat 16 (0x4000 + c) := by
  rw [← BitVec.toNat_inj, encode_putc_toNat, BitVec.toNat_ofNat, BitVec.toNat_ofNat]
  omega

/-- PUTS is one PUTC word per byte, in order (R111). -/
theorem assembleLine_puts {text : List Nat} (h : ∀ c ∈ text, c ≤ 255) :
    assembleLine (.puts text) = some (text.map (fun c => BitVec.ofNat 16 (0x4000 + c))) := by
  have hwf : (AsmLine.puts text).wellFormed = true := by simpa [AsmLine.wellFormed] using h
  simp only [assembleLine, hwf, if_true, expandLine, List.map_map, Option.some.injEq]
  exact List.map_congr_left (fun c hc => encode_putc_ofNat (h c hc))

/-- Settles O10: a line is refused by its range check alone, and a pseudo-command is its expansion's words. -/
theorem assemblerChecksRangesAndExpandsPseudoCommands : Obligations.AssemblerChecksRangesAndExpandsPseudoCommands := by
  unfold Obligations.AssemblerChecksRangesAndExpandsPseudoCommands
  refine ⟨fun row column v n d text => ⟨?_, ?_, ?_, ?_, ?_, assembleLine_puts, rfl, rfl⟩, rfl, rfl, rfl⟩ <;>
    rw [assembleLine_eq_none, AsmLine.wellFormed]
  · rw [Bool.and_eq_false_iff, decide_eq_false_iff_not, decide_eq_false_iff_not, not_le, not_le]
  · rw [decide_eq_false_iff_not, not_le]
  · rw [decide_eq_false_iff_not, not_le]
  · rw [decide_eq_false_iff_not, not_le]
  · simp

/-! ### Words that spell no command, on the port -/

/-- A rejected word completes with its failed check's result in one step of a waiting host (R214, R227). -/
theorem step_rejects {s : State} {w : Word} {r : ResultCode} (ha : s.Accepting w) (hwait : s.hostWait = .untilReady)
    (hacc : s.accepted = s.latch.load [.complete r]) : step s = .next ((s.latch.load [.complete r]).elapse.complete r) := by
  obtain ⟨hrst, hbusy, hvalid, -⟩ := ha
  rw [step_accepts hrst hbusy hvalid, hacc]
  exact s.latch.raise_untilReady r (by simpa using hwait)

/-- With CFG_OK = 1 an illegal word fails the check ILLEGAL_COMMAND (R212). -/
theorem State.accepted_of_illegal_cfg_ok {s : State} {e : Illegal} (hd : decode s.cmdWord = .error e)
    (hcfg : s.cfgOk = true) : s.accepted = s.latch.load [.complete .illegalCommand] := by
  rw [State.accepted_of_illegal hd]
  simp [State.acceptCheck, hcfg]

/-- Settles O26: the word is illegal, so its expansion is the single `Complete(ILLEGAL_COMMAND)`. -/
theorem illegalWordsGiveIllegalCommand : Obligations.IllegalWordsGiveIllegalCommand := by
  unfold Obligations.IllegalWordsGiveIllegalCommand
  intro s w ha hwait hcfg hhold hw
  obtain ⟨hop, hbits⟩ := illegalWordsAreReservedOpcodesAndReservedBits w
  have hd : ∃ e, decode s.cmdWord = .error e := by
    rw [ha.word]
    rcases hw with h | h | h
    · exact ⟨_, hop.mpr (.inl h)⟩
    · exact ⟨_, hop.mpr (.inr h)⟩
    · exact ⟨_, hbits.mpr h⟩
  obtain ⟨e, hd⟩ := hd
  refine ⟨_, step_rejects ha hwait (State.accepted_of_illegal_cfg_ok hd hcfg), ⟨rfl, rfl, rfl, rfl, rfl, rfl⟩,
    ⟨?_, ?_, ?_⟩, ?_, ?_, ?_, ?_⟩
  all_goals simp [State.complete, eventsOf, ha.word, hhold]

end Sys2Proof.Machine
end

section
/-! The bus transmitter: the micro-routines and expansions as written, one `Emit`, what a completed command leaves behind,
and the alternation of E's pulses. -/

namespace Sys2Proof.Machine

variable {s t : State}

/-! ### Micro-routines and expansions -/

/-- `sendNibble` takes any value, masked to its low 4 bits (R133). -/
theorem maskNibble_eq (n : Nat) : maskNibble n = BitVec.ofNat 4 (n % 16) := by
  apply BitVec.eq_of_toNat_eq
  simp [maskNibble]

theorem highNibble_toNat (v : Byte) : (highNibble v).toNat = v.toNat / 16 := by
  have hlt := v.isLt
  simp only [highNibble, BitVec.extractLsb'_toNat, Nat.shiftRight_eq_div_pow]
  omega

theorem lowNibble_toNat (v : Byte) : (lowNibble v).toNat = v.toNat % 16 := by
  simp [lowNibble]

/-- Settles O11: the mask is the remainder by 16, and a byte's nibbles are its quotient and remainder by 16. -/
theorem microRoutinesAreTheirPseudocode : Obligations.MicroRoutinesAreTheirPseudocode := by
  unfold Obligations.MicroRoutinesAreTheirPseudocode
  refine ⟨fun _ => rfl, fun cfg n => ?_, fun cfg v isData => ?_⟩
  · rw [sendNibble, maskNibble_eq]
    rfl
  · rw [sendByte, highNibble_toNat, lowNibble_toNat]
    rfl

/-- Settles O12: each body is its rule's routines appended in order. -/
theorem expansionsAreTheirPseudocode : Obligations.ExpansionsAreTheirPseudocode := by
  unfold Obligations.ExpansionsAreTheirPseudocode
  exact fun _ => ⟨rfl, rfl, fun _ _ => rfl, fun _ => rfl, fun _ _ => rfl, fun _ => rfl⟩

/-! ### One `Emit` -/

/-- Settles O34: the step performs the `Emit`, whose gap is no longer than `SLACK`. -/
theorem emitSetsItsPinAndAppendsItsEvent : Obligations.EmitSetsItsPinAndAppendsItsEvent := by
  unfold Obligations.EmitSetsItsPinAndAppendsItsEvent
  intro s p hrst hbusy hwait hhold hp
  refine ⟨_, step_performs hrst hbusy hwait hhold hp, ?_⟩
  have hnow : (s.perform (.emit p)).now = s.now + s.cfg.gap s.freeCount := by simp [State.perform]
  have hslack (b : Time) (hb : s.cfg.slack = some b) : (s.perform (.emit p)).now ≤ s.now + b := by
    rw [hnow]
    gcongr
    exact gap_le_slack s.cfg s.freeCount b hb
  have huntouched : Untouched s (s.perform (.emit p)) := by constructor <;> simp
  obtain ⟨hupc, hexp, hbusy', hdone, hresult⟩ := s.perform_plain (.emit p) rfl
  cases p with
  | rs v | e v | d v =>
    exact ⟨rfl, rfl, rfl, rfl, rfl, hupc, hexp, hhold, hbusy'.trans hbusy, hdone, hresult, rfl, huntouched,
      hnow ▸ le_self_add, hslack⟩

/-! ### What a completed command leaves behind -/

/-- A primitive moves the pins as its event says, and no other way (R130). -/
theorem State.perform_levels (s : State) (p : Prim) :
    (⟨(s.perform p).rs, (s.perform p).e, (s.perform p).d⟩ : Levels) =
      p.event.toList.foldl Levels.after ⟨s.rs, s.e, s.d⟩ := by
  cases p with
  | emit w => exact s.emit_levels w
  | hold d => rfl
  | setFlag f b => cases f; rfl
  | complete r => rfl

/-- The pins after an expansion are the levels its events lead to (R16, R130). -/
theorem State.performAll_levels (ps : List Prim) (s : State) :
    (⟨(s.performAll ps).rs, (s.performAll ps).e, (s.performAll ps).d⟩ : Levels) =
      (ps.filterMap Prim.event).foldl Levels.after ⟨s.rs, s.e, s.d⟩ := by
  induction ps generalizing s with
  | nil => rfl
  | cons p ps ih =>
    rw [State.performAll_cons, ih, State.perform_levels]
    cases h : p.event <;> simp [h]

/-- Only `SetFlag` writes INITIALIZED (R14). -/
theorem State.performAll_initialized (ps : List Prim) (s : State) (h : ∀ f b, .setFlag f b ∉ ps) :
    (s.performAll ps).initialized = s.initialized := by
  induction ps generalizing s with
  | nil => rfl
  | cons p ps ih =>
    rw [State.performAll_cons, ih _ fun f b hm => h f b (List.mem_cons_of_mem p hm)]
    cases p with
    | emit w => simp [State.perform, State.emit]
    | hold d => rfl
    | setFlag f b => exact absurd List.mem_cons_self (h f b)
    | complete r => rfl

/-- A command that passes its checks under a waiting host: its own events and a `Done(OK)`, the pins where its events
lead, and for every command but INIT the old INITIALIZED (R39, R213). -/
theorem exec_completes {i : Instr} (hwait : s.hostWait = .untilReady) (hc : checkOf s i = .ok) :
    ∃ t, exec i s = .next t ∧ Completed .ok t ∧ Untouched s t ∧
      eventsOf t.trace = eventsOf s.trace ++ (bodyOf s.cfg i).filterMap Prim.event ++ [.done .ok] ∧
      (⟨t.rs, t.e, t.d⟩ : Levels) = ((bodyOf s.cfg i).filterMap Prim.event).foldl Levels.after ⟨s.rs, s.e, s.d⟩ ∧
      (i ≠ .init → t.initialized = s.initialized) := by
  obtain ⟨b, hb, hinit⟩ : ∃ b, s.atAcceptance i = { s with initialized := b } ∧ (i ≠ .init → b = s.initialized) := by
    rcases s.atAcceptance_cases i with h | ⟨hi, h⟩
    · exact ⟨s.initialized, h, fun _ => rfl⟩
    · exact ⟨false, h, fun hne => absurd hi hne⟩
  refine ⟨_, exec_ok s i hwait hc, ⟨rfl, rfl, rfl, rfl, rfl, rfl⟩, ?_, ?_, ?_, fun hne => ?_⟩ <;> rw [hb]
  · constructor <;> simp [State.complete]
  · simp only [State.complete_trace, State.elapse_trace, eventsOf, List.map_append, State.performAll_events]
    rfl
  · exact State.performAll_levels _ _
  · refine (State.performAll_initialized _ _ fun f b hm => hne ?_).trans (hinit hne)
    exact setFlag_mem_bodyOf s.cfg i f b (List.mem_append_left _ hm)

/-- Settles O22: SENDN's events are those of its nibble, which leave RS alone, E low and the nibble on D. -/
theorem sendnCompletes : Obligations.SendnCompletes := by
  unfold Obligations.SendnCompletes
  intro s nibble hwait hcfg
  obtain ⟨t, hexec, hcompleted, huntouched, hevents, hlevels, hinit⟩ :=
    exec_completes hwait (checkOf_sendn_ok nibble hcfg)
  rw [bodyOf_events_sendn] at hevents hlevels
  obtain ⟨hrs, he, hd⟩ := Levels.mk.inj hlevels
  exact ⟨t, hexec, hcompleted, hinit nofun, hrs, he, hd, huntouched, hevents⟩

/-! ### E's pulses alternate -/

theorem pulseLevel_append_singleton (tr : Trace) (n : Time) (ev : Event) :
    pulseLevel (tr ++ [(n, ev)]) = pulseAfter (pulseLevel tr) ev := by
  simp [pulseLevel, eventsOf]

/-- A primitive that fits the plan keeps the alternation: an E write in the plan is the opposite of E's level (R134). -/
theorem State.perform_pulseLevel {p : Prim} {ps : List Prim} (hshape : planShape s.e (p :: ps) = true)
    (hpulse : pulseLevel s.trace = some s.e) : pulseLevel (s.perform p).trace = some (s.perform p).e := by
  cases p with
  | hold d => exact hpulse
  | setFlag f b => cases f; exact hpulse
  | complete r =>
    rw [State.perform, State.complete_trace, pulseLevel_append_singleton, hpulse]
    rfl
  | emit w =>
    rw [State.perform, State.advance_trace, State.emit_trace, pulseLevel_append_singleton, hpulse]
    cases w with
    | rs v | d v => rfl
    | e v =>
      simp only [planShape, Bool.and_eq_true, beq_iff_eq] at hshape
      exact if_pos hshape.1

theorem Reaches.keeps_pulseLevel (h : Reaches s t) (hs : s.Legal) (hpulse : pulseLevel s.trace = some s.e) :
    pulseLevel t.trace = some t.e := by
  induction h with
  | refl => exact hpulse
  | tail hr hstep ih =>
    rcases hstep.cases with ⟨-, rfl⟩ | ⟨-, p, hp, rfl⟩
    · exact ih
    · exact State.perform_pulseLevel ((Reaches.legal hr hs).planShape_cons hstep.1 hp) ih

theorem State.accepted_pulseLevel (hpulse : pulseLevel s.trace = some s.e) :
    pulseLevel s.accepted.trace = some s.accepted.e := by
  rw [State.accepted_trace, pulseLevel_append_singleton, hpulse, State.accepted_e]
  rfl

/-- A reset edge starts the alternation again from low (R242). -/
theorem State.applyReset_pulseLevel (hpulse : pulseLevel s.trace = some s.e) :
    pulseLevel s.applyReset.trace = some s.applyReset.e := by
  rw [State.applyReset, State.record_trace, pulseLevel_append_singleton, hpulse]
  rfl

/-- Settles O46: a step is a reset, or engine steps from the state itself or from its acceptance, which keep the
alternation with the sequencer legal; a legal idle state has E low. -/
theorem enablePulsesAlternate : Obligations.EnablePulsesAlternate := by
  unfold Obligations.EnablePulsesAlternate
  intro s t hs hpulse h
  refine ⟨?_, fun hidle => ?_⟩
  · rcases step_reaches h with ⟨-, rfl⟩ | ⟨-, -, hr⟩ | ⟨-, hbusy, -, hr⟩ | ⟨-, -, -, rfl⟩
    · exact State.applyReset_pulseLevel hpulse
    · exact hr.keeps_pulseLevel hs hpulse
    · exact hr.keeps_pulseLevel (State.accepted_legal hs hbusy) (State.accepted_pulseLevel hpulse)
    · exact hpulse
  · obtain ⟨-, -, -, he⟩ := (stepKeepsTheSequencerLegal s t hs h).idle hidle
    exact he

end Sys2Proof.Machine
end

section
/-! The command/data multiplexer: the hold after a byte (R153, R154), and what SENDB and PUTC leave behind (R155, R156). -/

namespace Sys2Proof.Machine

variable {s : State}

/-! ### The hold after a byte -/

/-- R154's set of long instructions, as numbers. -/
theorem longInstruction_iff (v : Byte) : longInstruction v = true ↔ v.toNat ∈ [1, 2, 3] := by
  simp [longInstruction, ← BitVec.toNat_inj, or_assoc]

/-- Settles O13: the condition of `holdAfter` is R153's, its set the numbers 1, 2 and 3. -/
theorem holdAfterByteIsLongForClearAndHome : Obligations.HoldAfterByteIsLongForClearAndHome := by
  unfold Obligations.HoldAfterByteIsLongForClearAndHome
  intro cfg v isData
  simp only [← longInstruction_iff]
  refine ⟨fun hinstr hlong => ?_, fun h => ?_⟩
  · simp [holdAfter, hinstr, hlong]
  · rcases h with hdata | hshort
    · simp [holdAfter, hdata]
    · simp [holdAfter, hshort]

/-! ### What a byte command leaves behind -/

/-- A command whose argument is good passes its checks on an initialized engine with every pin bound (R212). -/
theorem State.acceptCheck_ok (needsInit : Bool) (hcfg : s.cfgOk = true) (hinit : s.initialized = true) :
    s.acceptCheck false false needsInit = .ok := by
  simp [State.acceptCheck, hcfg, hinit]

/-- The low nibble of a byte, which D keeps after it, is its remainder by 16 (R64, R150). -/
theorem lowNibble_eq_ofNat (b : Byte) : lowNibble b = BitVec.ofNat 4 (b.toNat % 16) := by
  rw [← lowNibble_toNat, BitVec.ofNat_toNat, BitVec.setWidth_eq]

/-- A byte leaves its RS level, E low and its low nibble on the pins, whatever they were (R150, R151). -/
theorem byteEvents_levels (isData : Bool) (b : Byte) (l : Levels) :
    (byteEvents isData b).foldl Levels.after l = ⟨isData, false, lowNibble b⟩ := rfl

/-- A single byte's command that passes its checks under a waiting host: the byte's events and a `Done(OK)`, the pins
as the byte leaves them, INITIALIZED and all else as before (R150, R213). -/
theorem exec_byte_completes {i : Instr} {isData : Bool} {b : Byte} (hbyte : byteOf i = some (isData, b))
    (hwait : s.hostWait = .untilReady) (hc : checkOf s i = .ok) :
    ∃ t, exec i s = .next t ∧ Completed .ok t ∧ t.initialized = s.initialized ∧
      t.rs = isData ∧ t.e = false ∧ t.d = BitVec.ofNat 4 (b.toNat % 16) ∧ Untouched s t ∧
      eventsOf t.trace = eventsOf s.trace ++ byteEvents isData b ++ [.done .ok] := by
  have hne : i ≠ .init := by
    rintro rfl
    cases hbyte
  obtain ⟨t, hexec, hcompleted, huntouched, hevents, hlevels, hinit⟩ := exec_completes hwait hc
  rw [bodyOf_events_byte s.cfg i isData b hbyte] at hevents hlevels
  rw [byteEvents_levels, lowNibble_eq_ofNat] at hlevels
  obtain ⟨hrs, he, hd⟩ := Levels.mk.inj hlevels
  exact ⟨t, hexec, hcompleted, hinit hne, hrs, he, hd, huntouched, hevents⟩

/-- Settles O20: PUTC is the byte command of its character with RS = 1. -/
theorem putcCompletes : Obligations.PutcCompletes := by
  unfold Obligations.PutcCompletes
  intro s char hwait hcfg hinit
  have h := exec_byte_completes (i := .putc char) rfl hwait (State.acceptCheck_ok true hcfg hinit)
  rwa [hinit] at h

/-- Settles O21: SENDB is the byte command of its value with RS = `isData`. -/
theorem sendbCompletes : Obligations.SendbCompletes := by
  unfold Obligations.SendbCompletes
  intro s isData value hwait hcfg hinit
  have h := exec_byte_completes (i := .sendb isData value) rfl hwait (State.acceptCheck_ok true hcfg hinit)
  rwa [hinit] at h

end Sys2Proof.Machine
end

section
/-! The initialization sequencer: what INIT leaves behind (R170 to R178). -/

namespace Sys2Proof.Machine

variable {s t : State}

/-- An expansion whose last primitive is `SetFlag(INITIALIZED, b)` leaves `b`, whatever it did before (R14). -/
theorem State.performAll_concat_setFlag_initialized (s : State) (ps : List Prim) (b : Bool) :
    (s.performAll (ps ++ [.setFlag .initialized b])).initialized = b := by
  rw [State.performAll, List.foldl_concat]
  rfl

/-- INIT's expansion ends by setting INITIALIZED (R170, R171). -/
theorem bodyOf_init_ends_in_setFlag (cfg : Cfg) : ∃ ps, bodyOf cfg .init = ps ++ [.setFlag .initialized true] :=
  ⟨_, rfl⟩

/-- An INIT that passes its checks under a waiting host ends initialized, whether or not it was before (R171, R177). -/
theorem exec_init_initialized (hwait : s.hostWait = .untilReady) (hc : checkOf s .init = .ok)
    (hexec : exec .init s = .next t) : t.initialized = true := by
  obtain rfl := Host.Outcome.next.inj ((exec_ok s .init hwait hc).symm.trans hexec)
  obtain ⟨ps, hps⟩ := bodyOf_init_ends_in_setFlag s.cfg
  rw [State.complete_eq, hps]
  exact State.performAll_concat_setFlag_initialized _ ps true

/-- INIT's last byte, 0x01, leaves the pins at RS 0, E 0 and D 1, whatever they were (R150, R170). -/
theorem initEvents_levels (l : Levels) : initEvents.foldl Levels.after l = ⟨false, false, 0x1#4⟩ := by
  rw [initEvents, List.foldl_append, byteEvents_levels]
  rfl

/-- One pin event for RS, three for each of the four raw nibbles, seven for each of the four bytes (R178). -/
theorem initEvents_length : initEvents.length = 41 := rfl

/-- Settles O17: INIT's events are those of its expansion, whose last byte is 0x01 and whose last primitive sets
INITIALIZED. -/
theorem initCompletes : Obligations.InitCompletes := by
  unfold Obligations.InitCompletes
  intro s hwait hcfg
  have hc := checkOf_init_ok hcfg
  obtain ⟨t, hexec, hcompleted, huntouched, hevents, hlevels, -⟩ := exec_completes hwait hc
  rw [bodyOf_events_init] at hevents hlevels
  rw [initEvents_levels] at hlevels
  obtain ⟨hrs, he, hd⟩ := Levels.mk.inj hlevels
  exact ⟨t, hexec, hcompleted, exec_init_initialized hwait hc hexec, hrs, he, hd, huntouched, hevents, initEvents_length⟩

end Sys2Proof.Machine
end

section
/-! The display session: the bytes of CLEAR, SETCUR and PUTC (R190 to R199), what CLEAR and SETCUR leave behind, a stream
of characters, and two CLEARs in a row. -/

namespace Sys2Proof.Machine

variable {s t : State}

/-! ### The instruction byte of a cursor position -/

/-- Rows 0 and 1 begin 0x40 addresses apart (R192). -/
theorem ddramAddress_of_visible_row {row : Nibble} (column : Byte) (hrow : row = 0#4 ∨ row = 1#4) :
    ddramAddress row column = row.toNat * 0x40 + column.toNat := by
  rcases hrow with rfl | rfl <;> simp [ddramAddress]

/-- The byte is bit 7 and the low 7 bits of the address, which loses nothing before its mask (R192). -/
theorem setDdramByte_toNat (row : Nibble) (column : Byte) :
    (setDdramByte row column).toNat = 0x80 + ddramAddress row column % 0x80 := by
  have hmask : ∀ b : Byte, (0x80#8 ||| (b &&& 0x7F#8)).toNat = 0x80 + b.toNat % 0x80 := by decide
  rw [setDdramByte, hmask, BitVec.toNat_ofNat]
  omega

/-- Settles O14: the byte of R192, row by row. -/
theorem setcurByteIsTheDdramAddress : Obligations.SetcurByteIsTheDdramAddress := by
  unfold Obligations.SetcurByteIsTheDdramAddress
  exact fun _ => ⟨setDdramByte_toNat 0#4 _, setDdramByte_toNat 1#4 _⟩

/-! ### The controller's mode -/

/-- An expansion holds no `Complete`, so the events it adds to the trace are the pin events it emits (R38, R213). -/
theorem bodyOf_emitted (cfg : Cfg) (i : Instr) :
    (bodyOf cfg i).filterMap emitted = (bodyOf cfg i).filterMap Prim.event := by
  refine List.filterMap_congr fun p hp => ?_
  have hplain := List.all_eq_true.mp (bodyOf_plain cfg i) p hp
  cases p with
  | complete r => cases hplain
  | emit w | hold d | setFlag f b => rfl

/-- A character byte writes DDRAM and AC at most (R85). -/
theorem View.character_mode (ctrl : CtrlNextAc) (b : Byte) (v : View) : (v.character ctrl b).mode = v.mode := by
  cases hac : v.ac with
  | some a => rw [View.character_of_ac ctrl b hac]
  | none => rw [View.character_of_ac_unknown ctrl b hac]

/-- Clear Display and Set DDRAM Address write DDRAM and AC at most (R84). -/
theorem View.instruction_mode {b : Byte} (v : View) (hb : b = 0x01#8 ∨ 0x80 ≤ b.toNat) :
    (v.instruction b).mode = v.mode := by
  have hhigh : ∀ b : Byte, 0x80 ≤ b.toNat → b = 1#1 ++ b.extractLsb' 0 7 := by decide
  rcases hb with rfl | hb
  · rw [v.instruction_clear]
  · rw [hhigh b hb, v.instruction_setDdram]

/-- Settles O15: each expansion emits its command's byte, and those bytes are Clear Display, Set DDRAM Address and
characters. -/
theorem sessionCommandsSendNoModeChange : Obligations.SessionCommandsSendNoModeChange := by
  unfold Obligations.SessionCommandsSendNoModeChange
  have hbyte (cfg : Cfg) (i : Instr) (isData : Bool) (b : Byte) (h : byteOf i = some (isData, b)) :
      (bodyOf cfg i).filterMap emitted = byteEvents isData b :=
    (bodyOf_emitted cfg i).trans (bodyOf_events_byte cfg i isData b h)
  refine ⟨fun cfg => hbyte cfg _ _ _ rfl, fun cfg r c => ⟨setDdramByte r c, ?_, hbyte cfg _ _ _ rfl⟩,
    fun cfg c => hbyte cfg _ _ _ rfl, fun ctrl v b => ⟨v.character_mode ctrl b, v.instruction_mode⟩⟩
  rw [setDdramByte_toNat]
  exact Nat.le_add_right _ _

/-! ### CLEAR and SETCUR -/

/-- Settles O18: CLEAR is the byte command of 0x01 with RS = 0. -/
theorem clearCompletes : Obligations.ClearCompletes := by
  unfold Obligations.ClearCompletes
  intro s hwait hcfg hinit
  have h := exec_byte_completes (i := .clear) rfl hwait (State.acceptCheck_ok true hcfg hinit)
  rwa [hinit] at h

/-- Rows 0 and 1 alone pass the check of the row (R194). -/
theorem rowIllegal_eq_false_iff (row : Nibble) : rowIllegal row = false ↔ row = 0#4 ∨ row = 1#4 := by
  revert row
  decide

/-- Settles O19: SETCUR is the byte command of R192's byte with RS = 0. -/
theorem setcurCompletes : Obligations.SetcurCompletes := by
  unfold Obligations.SetcurCompletes
  intro s row column hwait hcfg hinit hrow
  have hc : checkOf s (.setcur row column) = .ok := by
    rw [checkOf, (rowIllegal_eq_false_iff row).mpr hrow]
    exact State.acceptCheck_ok true hcfg hinit
  obtain ⟨t, hexec, hcompleted, hkept, hrest⟩ := exec_byte_completes rfl hwait hc
  refine ⟨t, _, hexec, ?_, hcompleted, hkept.trans hinit, hrest⟩
  rw [setDdramByte_toNat, ddramAddress_of_visible_row column hrow]

/-- A command that fails a check under a waiting host completes with the check's result: no pin, flag or input changes,
and only the pending holds and one free gap pass before its `Done` (R214, R259). -/
theorem exec_rejected_completes {i : Instr} (hwait : s.hostWait = .untilReady) (hc : checkOf s i ≠ .ok) :
    ∃ t, exec i s = .next t ∧ Completed (checkOf s i) t ∧ SamePins s t ∧ t.initialized = s.initialized ∧
      Untouched s t ∧ eventsOf t.trace = eventsOf s.trace ++ [.done (checkOf s i)] ∧
      t.now = s.now + s.hold + s.cfg.gap s.freeCount := by
  refine ⟨_, (exec_rejected s i hc).trans (s.raise_untilReady _ hwait), ⟨rfl, rfl, rfl, rfl, rfl, rfl⟩,
    ⟨rfl, rfl, rfl⟩, rfl, ⟨rfl, rfl, rfl, rfl, rfl, rfl, rfl, rfl, rfl⟩, ?_, rfl⟩
  simp [State.complete, eventsOf]

/-- Settles O27: the row fails the check INVALID_ARGUMENT, which comes before INITIALIZED's. -/
theorem setcurRowOutOfRangeGivesInvalidArgument : Obligations.SetcurRowOutOfRangeGivesInvalidArgument := by
  unfold Obligations.SetcurRowOutOfRangeGivesInvalidArgument
  intro s row column hwait hcfg hhold h0 h1
  have hrow : rowIllegal row = true := by
    rw [← Bool.not_eq_false, rowIllegal_eq_false_iff]
    exact not_or.mpr ⟨h0, h1⟩
  have hc : checkOf s (.setcur row column) = .invalidArgument := by
    simp [checkOf, State.acceptCheck, hcfg, hrow]
  have h := exec_rejected_completes (i := .setcur row column) hwait (by simp [hc])
  rwa [hc, hhold, add_zero] at h

/-! ### One command after another -/

/-- A byte command on the port that passes its checks: one step of a waiting host accepts it and runs it to completion,
and what the acceptance latched stays (R112, R150, R213). -/
theorem step_byte_completes {w : Word} {i : Instr} {isData : Bool} {b : Byte} (ha : s.Accepting w)
    (hd : decode w = .ok i) (hbyte : byteOf i = some (isData, b)) (hwait : s.hostWait = .untilReady)
    (hc : checkOf s i = .ok) :
    ∃ t, step s = .next t ∧ Completed .ok t ∧ t.initialized = s.initialized ∧ Untouched s.latch t ∧
      eventsOf t.trace = eventsOf s.trace ++ .accept w :: (byteEvents isData b ++ [.done .ok]) := by
  obtain ⟨hrst, hbusy, hvalid, rfl⟩ := ha
  obtain ⟨t, hexec, hcompleted, hinit, -, -, -, huntouched, hevents⟩ :=
    exec_byte_completes (s := s.latch) hbyte (s.latch_hostWait.trans hwait) ((checkOf_latch s i).trans hc)
  refine ⟨t, (step_of_decoded hrst hbusy hvalid hd).trans hexec, hcompleted, hinit.trans s.latch_initialized,
    huntouched, ?_⟩
  rw [hevents]
  simp [eventsOf]

/-- The host's next request is on the port of the engine that has completed the last one (R113). -/
theorem State.accepting_next_request {r : Request} {rs : List Request} (hrst : s.rst = false)
    (hstream : s.stream = r :: rs) (hbusy : t.busy = false) (hu : Untouched s.latch t) :
    t.Accepting r.word ∧ t.stream = rs := by
  have hport : s.latch.cmdValid = true ∧ s.latch.cmdWord = r.word := by
    simp [State.latch, State.nextRequest, hstream]
  refine ⟨⟨?_, hbusy, hu.cmdValid.trans hport.1, hu.cmdWord.trans hport.2⟩, ?_⟩
  · rw [hu.rst, s.latch_rst, hrst]
  · rw [hu.stream, s.latch_stream, hstream, List.tail_cons]

theorem Untouched.hostWait_of_latch (hu : Untouched s.latch t) : t.hostWait = s.hostWait :=
  hu.hostWait.trans s.latch_hostWait

theorem Untouched.cfgOk_of_latch (hu : Untouched s.latch t) : t.cfgOk = s.cfgOk :=
  congrArg Cfg.pinsOk (hu.cfg.trans s.latch_cfg)

/-- Settles O51: by induction on the characters; each step is one PUTC, and leaves the next on the port. -/
theorem characterStreamHasNoInstructionByte : Obligations.CharacterStreamHasNoInstructionByte := by
  unfold Obligations.CharacterStreamHasNoInstructionByte
  intro cs
  induction cs with
  | nil => exact fun _ _ _ _ _ _ _ hwords => nomatch hwords
  | cons c cs ih =>
    intro s hrst hbusy hwait hcfg hinit hvalid hwords
    obtain ⟨hword, hrest⟩ := List.cons.inj hwords
    obtain ⟨t, hstep, hcompleted, hinit', hu, hevents⟩ :=
      step_byte_completes ⟨hrst, hbusy, hvalid, hword⟩ (decode_encode (.putc c)) rfl hwait
        (State.acceptCheck_ok true hcfg hinit)
    rw [hinit] at hinit'
    cases hstream : s.stream with
    | nil =>
      obtain rfl : cs = [] := by simpa [hstream] using hrest
      exact ⟨t, run_one hstep, hcompleted, hinit', by simpa using hevents⟩
    | cons r rs =>
      obtain ⟨ha, hstream'⟩ := State.accepting_next_request hrst hstream hcompleted.busy hu
      have hwords' : t.cmdWord :: t.stream.map Request.word = cs.map (fun c => encode (.putc c)) := by
        rw [ha.word, hstream', ← hrest, hstream, List.map_cons]
      obtain ⟨u, hrun, hdone, hinit'', hevents'⟩ := ih t ha.rst ha.busy (hu.hostWait_of_latch.trans hwait)
        (hu.cfgOk_of_latch.trans hcfg) hinit' ha.valid hwords'
      refine ⟨u, (run_succ _ hstep).trans hrun, hdone, hinit'', ?_⟩
      rw [hevents', hevents, List.flatMap_cons, List.append_assoc]

/-! ### CLEAR as the controller sees it -/

/-- What CLEAR's byte leaves of a synchronised controller in phase HI (R84, R190). -/
def View.cleared (v : View) : View :=
  { v with phase := some .hi, hi := some 0x0#4, rsHi := some false, ac := some 0#7, ddram := Memory.fill 0x20#8 }

/-- Everything CLEAR changes it sets to a fixed value, so a second one changes nothing (R191). -/
theorem View.cleared_cleared (v : View) : v.cleared.cleared = v.cleared := rfl

/-- A CLEAR on the port of an initialized engine, before a synchronised controller in phase HI. -/
theorem step_clear {ctl : Controller} (hs : s.TraceAgrees) (ha : s.Accepting 0x2000#16)
    (hwait : s.hostWait = .untilReady) (hcfg : s.cfgOk = true) (hinit : s.initialized = true)
    (hsync : (s.controller ctl).sync = some .fourBit) (hphase : (s.controller ctl).phase = some .hi) :
    ∃ t, step s = .next t ∧ t.controller ctl = (s.controller ctl).cleared ∧ Completed .ok t ∧
      t.initialized = s.initialized ∧ Untouched s.latch t ∧
      eventsOf t.trace = eventsOf s.trace ++ .accept 0x2000#16 :: (byteEvents false 0x01#8 ++ [.done .ok]) := by
  have hd : decode 0x2000#16 = .ok .clear := decode_encode .clear
  have hc : checkOf s .clear = .ok := State.acceptCheck_ok true hcfg hinit
  obtain ⟨t, hstep, hrest⟩ := step_byte_completes ha hd rfl hwait hc
  obtain ⟨t', hstep', hlatched⟩ := step_latches_byte hs ha hwait hd rfl hc hsync
  obtain rfl := Host.Outcome.next.inj (hstep.symm.trans hstep')
  refine ⟨t, hstep, ?_, hrest⟩
  rw [hlatched, View.latch_byte _ _ _ hsync hphase]
  rfl

/-- Settles O58: the second CLEAR finds what the first one did, and clearing twice is clearing once. -/
theorem twoClearsLeaveTheControllerAsOne : Obligations.TwoClearsLeaveTheControllerAsOne := by
  unfold Obligations.TwoClearsLeaveTheControllerAsOne
  intro s ctl delay hs ha hstream hwait hcfg hinit hsync hphase
  obtain ⟨t, hstep, hview, hcompleted, hinit', hu, -⟩ := step_clear hs ha hwait hcfg hinit hsync hphase
  obtain ⟨ha', -⟩ := State.accepting_next_request ha.rst hstream hcompleted.busy hu
  have hsync' : (t.controller ctl).sync = some .fourBit := (congrArg View.sync hview).trans hsync
  have hphase' : (t.controller ctl).phase = some .hi := congrArg View.phase hview
  obtain ⟨u, hstep', hview', -, -, -, hevents⟩ := step_clear (stepKeepsTheTraceInAgreement s t hs hstep) ha'
    (hu.hostWait_of_latch.trans hwait) (hu.cfgOk_of_latch.trans hcfg) (hinit'.trans hinit) hsync' hphase'
  refine ⟨t, u, hstep, hstep', ?_, ?_, ?_, hevents⟩
  · rw [hview', hview, View.cleared_cleared]
  · rw [hview]
    rfl
  · rw [hview]
    exact Memory.read_fill 0x20#8

end Sys2Proof.Machine
end

section
/-! Results (R210 to R214): the word-level check is the decoder's verdict with the command's own checks, so every accepted
word completes with it, and a failed check touches nothing; an idle engine waits (R227), and `Complete` frees it (R213). -/

namespace Sys2Proof.Machine

variable {s : State} {w : Word}

/-! ### Reserved-zero bits -/

/-- A mask clears a word iff it clears each of its fields (R100). -/
theorem and_mask_eq_zero (w m : Word) :
    w &&& m = 0#16 ↔ opField w &&& opField m = 0#4 ∧ aField w &&& aField m = 0#4 ∧ bField w &&& bField m = 0#8 := by
  simpa [OpcodeRow.matches, show opField 0#16 = 0#4 from rfl, show aField 0#16 = 0#4 from rfl,
    show bField 0#16 = 0#8 from rfl] using OpcodeRow.matches_iff ⟨m, 0#16⟩ w

/-- `cmd[11:0]` is zero iff both operand fields are (R105). -/
theorem and_operandMask (w : Word) : w &&& 0x0FFF#16 = 0#16 ↔ aField w = 0#4 ∧ bField w = 0#8 := by
  simp [and_mask_eq_zero, show opField 0x0FFF#16 = 0#4 from rfl, show aField 0x0FFF#16 = 0xF#4 from rfl,
    show bField 0x0FFF#16 = 0xFF#8 from rfl]

/-- `cmd[11:8]` is the field A (R105). -/
theorem and_aMask (w : Word) : w &&& 0x0F00#16 = 0#16 ↔ aField w = 0#4 := by
  simp [and_mask_eq_zero, show opField 0x0F00#16 = 0#4 from rfl, show aField 0x0F00#16 = 0xF#4 from rfl,
    show bField 0x0F00#16 = 0#8 from rfl]

/-- `cmd[11:9]` is the field A without SENDB's RS bit (R105). -/
theorem and_sendbMask (w : Word) : w &&& 0x0E00#16 = 0#16 ↔ aField w = 0#4 ∨ aField w = 1#4 := by
  have key : ∀ a : Nibble, a &&& 0xE#4 = 0#4 ↔ (a = 0#4 ∨ a = 1#4) := by decide
  simp [and_mask_eq_zero, show opField 0x0E00#16 = 0#4 from rfl, show aField 0x0E00#16 = 0xE#4 from rfl,
    show bField 0x0E00#16 = 0#8 from rfl, key]

/-- The decoder finds reserved-zero bits set exactly where R105's masks do. -/
theorem decode_eq_reservedBits_iff (w : Word) : decode w = .error .reservedBits ↔ reservedZeroBits w ≠ 0#16 := by
  rw [ne_eq]
  rcases opField_cases w with h | h | h | h | h | h | h
  · simp [decode_op1 h, reservedZeroBits, h, and_operandMask]
  · simp [decode_op2 h, reservedZeroBits, h, and_operandMask]
  · simp [decode_op3 h, reservedZeroBits, h]
  · simp [decode_op4 h, reservedZeroBits, h, and_aMask]
  · simp [decode_op5 h, reservedZeroBits, h, and_sendbMask]
  · simp [decode_op6 h, reservedZeroBits, h, and_aMask]
  · simp [decode_reserved h, reservedZeroBits, opReserved_ne h]

/-! ### The word-level check and the decoded one -/

/-- Both checks of ILLEGAL_COMMAND together are "the word spells no command" (R104, R105, R212). -/
theorem checkWord_of_illegal {e : Illegal} (hd : decode w = .error e) :
    checkWord w s.initialized s.cfgOk = s.acceptCheck true false false := by
  cases e with
  | reservedOpcode =>
    simp [checkWord, State.acceptCheck, (decode_eq_reservedOpcode w).mp hd]
  | reservedBits =>
    simp [checkWord, State.acceptCheck, (decode_eq_reservedBits_iff w).mp hd]

/-- A word that spells a command passes both checks of ILLEGAL_COMMAND (R212). -/
theorem checkWord_of_legal {i : Instr} (hd : decode w = .ok i) :
    checkWord w s.initialized s.cfgOk = s.acceptCheck false (decide (opField w = 3#4) && rowIllegal (aField w))
      (decide (opField w = 2#4 ∨ opField w = 3#4 ∨ opField w = 4#4 ∨ opField w = 5#4)) := by
  have hop : opReserved w = false := by
    rw [← Bool.not_eq_true, ← decode_eq_reservedOpcode, hd]
    nofun
  have hbits : reservedZeroBits w = 0#16 := by
    rw [← not_ne_iff, ← decode_eq_reservedBits_iff, hd]
    nofun
  simp [checkWord, State.acceptCheck, hop, hbits]

/-- The checks on the word are those of the command it decodes to (R211, R212). -/
theorem checkWord_of_decoded {i : Instr} (hd : decode w = .ok i) :
    checkWord w s.initialized s.cfgOk = checkOf s i := by
  rw [checkWord_of_legal hd]
  rcases opField_cases w with h | h | h | h | h | h | h
  · obtain ⟨-, rfl⟩ := ite_ok_eq_ok.mp ((decode_op1 h).symm.trans hd)
    simp [h, checkOf]
  · obtain ⟨-, rfl⟩ := ite_ok_eq_ok.mp ((decode_op2 h).symm.trans hd)
    simp [h, checkOf]
  · obtain rfl := Except.ok.inj ((decode_op3 h).symm.trans hd)
    simp [h, checkOf]
  · obtain ⟨-, rfl⟩ := ite_ok_eq_ok.mp ((decode_op4 h).symm.trans hd)
    simp [h, checkOf]
  · obtain ⟨-, rfl⟩ := ite_ok_eq_ok.mp ((decode_op5 h).symm.trans hd)
    simp [h, checkOf]
  · obtain ⟨-, rfl⟩ := ite_ok_eq_ok.mp ((decode_op6 h).symm.trans hd)
    simp [h, checkOf]
  · simp [decode_reserved h] at hd

/-- Only a word that spells a command passes, and the command passes with it (R212). -/
theorem exists_decoded_of_checkWord_ok (h : checkWord w s.initialized s.cfgOk = .ok) :
    ∃ i, decode w = .ok i ∧ checkOf s i = .ok := by
  cases hd : decode w with
  | ok i => exact ⟨i, rfl, (checkWord_of_decoded hd).symm.trans h⟩
  | error e => exact absurd ((checkWord_of_illegal hd).symm.trans h) s.acceptCheck_illegal_ne_ok

/-- A word that fails its check expands to the single `Complete` of the check's result (R38, R212). -/
theorem State.accepted_of_checkWord_failed (h : checkWord s.cmdWord s.initialized s.cfgOk ≠ .ok) :
    s.accepted = s.latch.load [.complete (checkWord s.cmdWord s.initialized s.cfgOk)] := by
  cases hd : decode s.cmdWord with
  | ok i =>
    rw [checkWord_of_decoded hd] at h ⊢
    exact State.accepted_of_rejected hd h
  | error e => rw [checkWord_of_illegal hd, State.accepted_of_illegal hd]

/-- Under a waiting host a word that fails its check completes in the step that accepts it (R214, R227). -/
theorem step_of_checkWord_failed (ha : s.Accepting w) (hwait : s.hostWait = .untilReady)
    (h : checkWord w s.initialized s.cfgOk ≠ .ok) :
    step s = .next ((s.latch.load [.complete (checkWord w s.initialized s.cfgOk)]).elapse.complete
      (checkWord w s.initialized s.cfgOk)) := by
  rw [← ha.word] at h ⊢
  exact step_rejects ha hwait (State.accepted_of_checkWord_failed h)

/-! ### Results -/

/-- Settles O29: a failed check's result is the one completed with, and a command that passes completes with OK. -/
theorem acceptedWordCompletesWithItsCheck : Obligations.AcceptedWordCompletesWithItsCheck := by
  unfold Obligations.AcceptedWordCompletesWithItsCheck
  intro s w ha hwait
  by_cases h : checkWord w s.initialized s.cfgOk = .ok
  · obtain ⟨i, hd, hc⟩ := exists_decoded_of_checkWord_ok h
    exact ⟨_, step_completes ha hwait hd hc, rfl, rfl, h.symm⟩
  · exact ⟨_, step_of_checkWord_failed ha hwait h, rfl, rfl, rfl⟩

/-- Settles O30: the expansion is the single `Complete`, so only the latch and the completion write the state. -/
theorem errorResultTouchesNothing : Obligations.ErrorResultTouchesNothing := by
  unfold Obligations.ErrorResultTouchesNothing
  intro s w ha hwait hhold h
  refine ⟨_, step_of_checkWord_failed ha hwait h, ⟨rfl, rfl, rfl, rfl, rfl, rfl⟩, ⟨?_, ?_, ?_⟩, ?_, ?_, ?_⟩
  all_goals simp [State.complete, eventsOf, ha.word, hhold]

/-! ### Waiting and completing -/

/-- Settles O32: of all that a step can do, only the wait is left. -/
theorem idleEngineWaits : Obligations.IdleEngineWaits := by
  unfold Obligations.IdleEngineWaits
  intro s hrst hbusy hvalid
  rcases step_cases s with ⟨h, -⟩ | ⟨-, h, -⟩ | ⟨-, -, h, -⟩ | ⟨-, -, h, -⟩ | ⟨-, -, -, hstep⟩
  · simp [hrst] at h
  · simp [hbusy] at h
  · simp [hvalid] at h
  · simp [hvalid] at h
  · exact hstep

/-- Settles O36: the step performs the `Complete`. -/
theorem completeReportsAndFrees : Obligations.CompleteReportsAndFrees := by
  unfold Obligations.CompleteReportsAndFrees
  intro s r hrst hbusy hwait hhold hp
  have huntouched : Untouched s (s.complete r) := ⟨rfl, rfl, rfl, rfl, rfl, rfl, rfl, rfl, rfl⟩
  have hready : (s.complete r).cmdReady = true := by simp [State.cmdReady, State.complete, hrst]
  exact ⟨s.complete r, step_performs hrst hbusy hwait hhold hp, ⟨rfl, rfl, rfl, rfl, rfl, hhold⟩, ⟨rfl, rfl, rfl⟩, rfl,
    huntouched, hready, rfl, le_self_add⟩

end Sys2Proof.Machine
end

section
/-! The pulse contract (R246, R247): it survives longer gaps, every command's expansion keeps it from settled pins,
and so does every step. -/

namespace Sys2Proof.Machine

variable {s t : State}

/-! ### One pin write under the contract -/

section Clocks

variable {k k' : PulseClocks} {n : Time}

/-- RS changes only while E is low and settled (R247). -/
theorem PulseClocks.after_rs_iff {v : Bool} : k.after n (.pin (.rs v)) = some k' ↔
    k.e = false ∧ elapsed k.fallAt k.cfg.tSettle n = true ∧ { k with dataAt := some n } = k' := by
  simp [PulseClocks.after, and_assoc]

/-- D changes only while E is low and settled (R247). -/
theorem PulseClocks.after_d_iff {v : Nibble} : k.after n (.pin (.d v)) = some k' ↔
    k.e = false ∧ elapsed k.fallAt k.cfg.tSettle n = true ∧ { k with dataAt := some n } = k' := by
  simp [PulseClocks.after, and_assoc]

/-- E rises only `T_SETUP` after RS and D changed and `T_SETTLE` after it fell (R247). -/
theorem PulseClocks.after_rise_iff : k.after n (.pin (.e true)) = some k' ↔
    k.e = false ∧ elapsed k.dataAt k.cfg.tSetup n = true ∧ elapsed k.fallAt k.cfg.tSettle n = true ∧
      { k with e := true, riseAt := some n } = k' := by
  simp [PulseClocks.after, and_assoc]

/-- E falls only `T_PW` after it rose (R246). -/
theorem PulseClocks.after_fall_iff : k.after n (.pin (.e false)) = some k' ↔
    k.e = true ∧ elapsed k.riseAt k.cfg.tPw n = true ∧ { k with e := false, fallAt := some n } = k' := by
  simp [PulseClocks.after, and_assoc]

theorem PulseClocks.after_pin_cfg {p : PinWrite} (h : k.after n (.pin p) = some k') : k'.cfg = k.cfg := by
  match p with
  | .rs _ => obtain ⟨-, -, rfl⟩ := PulseClocks.after_rs_iff.1 h; rfl
  | .d _ => obtain ⟨-, -, rfl⟩ := PulseClocks.after_d_iff.1 h; rfl
  | .e true => obtain ⟨-, -, -, rfl⟩ := PulseClocks.after_rise_iff.1 h; rfl
  | .e false => obtain ⟨-, -, rfl⟩ := PulseClocks.after_fall_iff.1 h; rfl

end Clocks

/-! ### Longer gaps -/

theorem elapsed_some (a d n : Time) : elapsed (some a) d n = true ↔ a + d ≤ n := by simp [elapsed]

theorem elapsed_mono {a : Option Time} {d n m : Time} (h : elapsed a d n = true) (hnm : n ≤ m) :
    elapsed a d m = true := by
  cases a with
  | none => rfl
  | some a => exact (elapsed_some a d m).2 (((elapsed_some a d n).1 h).trans hnm)

/-- `b` is `a` put off by at most `δ`. -/
def PutOff (δ : Time) (a b : Option Time) : Prop :=
  match a, b with
  | none, none => True
  | some x, some y => y ≤ x + δ
  | none, some _ => False
  | some _, none => False

theorem putOff_refl (δ : Time) (a : Option Time) : PutOff δ a a := by
  cases a with
  | none => trivial
  | some x => exact le_self_add

theorem PutOff.elapsed {δ d n : Time} {a b : Option Time} (hab : PutOff δ a b) (h : elapsed a d n = true) :
    elapsed b d (n + δ) = true := by
  match a, b with
  | none, none => rfl
  | some x, some y =>
    refine (elapsed_some y d _).2 ?_
    calc y + d ≤ x + δ + d := by gcongr; exact hab
      _ = x + d + δ := add_right_comm x δ d
      _ ≤ n + δ := by gcongr; exact (elapsed_some x d n).1 h

/-- The clocks `j` are the clocks `k` with each event put off by at most `δ`. -/
structure PulseClocks.Lags (δ : Time) (k j : PulseClocks) : Prop where
  cfg : j.cfg = k.cfg
  e : j.e = k.e
  data : PutOff δ k.dataAt j.dataAt
  rise : PutOff δ k.riseAt j.riseAt
  fall : PutOff δ k.fallAt j.fallAt

theorem PulseClocks.lags_refl (δ : Time) (k : PulseClocks) : k.Lags δ k :=
  ⟨rfl, rfl, putOff_refl _ _, putOff_refl _ _, putOff_refl _ _⟩

/-- A pin write that keeps the contract keeps it when it and the events before it are put off, it the longest. -/
theorem PulseClocks.Lags.after {δ n : Time} {k k' j : PulseClocks} {p : PinWrite} (h : k.Lags δ j)
    (hk : k.after n (.pin p) = some k') : ∃ j', j.after (n + δ) (.pin p) = some j' ∧ k'.Lags δ j' := by
  obtain ⟨hcfg, he, hdata, hrise, hfall⟩ := h
  match p with
  | .rs _ =>
    obtain ⟨hlow, hsettle, rfl⟩ := PulseClocks.after_rs_iff.1 hk
    exact ⟨_, PulseClocks.after_rs_iff.2 ⟨he.trans hlow, hcfg ▸ hfall.elapsed hsettle, rfl⟩, hcfg, he, le_rfl, hrise,
      hfall⟩
  | .d _ =>
    obtain ⟨hlow, hsettle, rfl⟩ := PulseClocks.after_d_iff.1 hk
    exact ⟨_, PulseClocks.after_d_iff.2 ⟨he.trans hlow, hcfg ▸ hfall.elapsed hsettle, rfl⟩, hcfg, he, le_rfl, hrise,
      hfall⟩
  | .e true =>
    obtain ⟨hlow, hsetup, hsettle, rfl⟩ := PulseClocks.after_rise_iff.1 hk
    exact ⟨_, PulseClocks.after_rise_iff.2
      ⟨he.trans hlow, hcfg ▸ hdata.elapsed hsetup, hcfg ▸ hfall.elapsed hsettle, rfl⟩, hcfg, rfl, hdata, le_rfl, hfall⟩
  | .e false =>
    obtain ⟨hhigh, hwidth, rfl⟩ := PulseClocks.after_fall_iff.1 hk
    exact ⟨_, PulseClocks.after_fall_iff.2 ⟨he.trans hhigh, hcfg ▸ hrise.elapsed hwidth, rfl⟩, hcfg, rfl, hdata, hrise,
      le_rfl⟩

/-- A plan whose next primitive is a pin write keeps the contract iff the write does and the rest does after it. -/
theorem planKeeps_emit_iff {k : PulseClocks} {n : Time} {p : PinWrite} {ps : List Prim} :
    planKeeps k n (.emit p :: ps) = true ↔ ∃ k', k.after n (.pin p) = some k' ∧ planKeeps k' n ps = true := by
  cases h : k.after n (.pin p) <;> simp [planKeeps, h]

/-- A plan that keeps the contract keeps it when its start is put off (R131: a gap may be longer). -/
theorem planKeeps_of_lags {δ : Time} {ps : List Prim} {k j : PulseClocks} {n : Time} (h : k.Lags δ j)
    (hk : planKeeps k n ps = true) : planKeeps j (n + δ) ps = true := by
  induction ps generalizing k j n with
  | nil =>
    simp only [planKeeps, Bool.and_eq_true] at hk ⊢
    rw [h.e, h.cfg]
    exact ⟨hk.1, h.fall.elapsed hk.2⟩
  | cons p ps ih =>
    cases p with
    | hold d =>
      rw [planKeeps, add_right_comm]
      exact ih h hk
    | setFlag f b => exact ih h hk
    | complete r => exact ih h hk
    | emit w =>
      obtain ⟨k', hk', hrest⟩ := planKeeps_emit_iff.1 hk
      obtain ⟨j', hj', hlags⟩ := h.after hk'
      exact planKeeps_emit_iff.2 ⟨j', hj', ih hlags hrest⟩

theorem planKeeps_mono {ps : List Prim} {k : PulseClocks} {n m : Time} (hk : planKeeps k n ps = true) (hnm : n ≤ m) :
    planKeeps k m ps = true := by
  obtain ⟨δ, rfl⟩ := exists_add_of_le hnm
  exact planKeeps_of_lags (k.lags_refl δ) hk

/-! ### Every expansion keeps the contract -/

/-- Under `c`, E is low at `n` and has been for `T_SETTLE`. -/
structure PulseClocks.Settled (c : Cfg) (n : Time) (k : PulseClocks) : Prop where
  cfg : k.cfg = c
  low : k.e = false
  settled : elapsed k.fallAt c.tSettle n = true

theorem PulseClocks.Settled.mono {c : Cfg} {n m : Time} {k : PulseClocks} (h : k.Settled c n) (hnm : n ≤ m) :
    k.Settled c m :=
  ⟨h.cfg, h.low, elapsed_mono h.settled hnm⟩

/-- With nothing left to run, the contract asks for settled pins. -/
theorem planKeeps_nil_iff {k : PulseClocks} {n : Time} : planKeeps k n [] = true ↔ k.Settled k.cfg n := by
  simp only [planKeeps, Bool.and_eq_true, Bool.not_eq_true']
  exact ⟨fun ⟨hlow, h⟩ => ⟨rfl, hlow, h⟩, fun h => ⟨h.low, h.settled⟩⟩

/-- From settled pins `ps` keeps the contract and leaves the pins settled: what keeps it from there on, keeps it after
`ps`. -/
def KeepsPulses (c : Cfg) (ps : List Prim) : Prop :=
  ∀ rest, (∀ k n, k.Settled c n → planKeeps k n rest = true) →
    ∀ k n, k.Settled c n → planKeeps k n (ps ++ rest) = true

variable {c : Cfg}

theorem KeepsPulses.append {ps qs : List Prim} (hp : KeepsPulses c ps) (hq : KeepsPulses c qs) :
    KeepsPulses c (ps ++ qs) := by
  intro rest hrest
  rw [List.append_assoc]
  exact hp _ (hq _ hrest)

theorem KeepsPulses.planKeeps {ps : List Prim} {k : PulseClocks} {n : Time} (hp : KeepsPulses c ps)
    (hk : k.Settled c n) : planKeeps k n ps = true := by
  have h := hp [] (fun k n hk => planKeeps_nil_iff.2 (hk.cfg.symm ▸ hk)) k n hk
  rwa [List.append_nil] at h

theorem keepsPulses_hold (d : Time) : KeepsPulses c [.hold d] :=
  fun _ hrest k _ hk => hrest k _ (hk.mono le_self_add)

theorem keepsPulses_setFlag (f : Flag) (b : Bool) : KeepsPulses c [.setFlag f b] := fun _ hrest k _ hk => hrest k _ hk

theorem keepsPulses_complete (r : ResultCode) : KeepsPulses c [.complete r] := fun _ hrest k _ hk => hrest k _ hk

/-- RS may be written while the pins are settled (R151, R247). -/
theorem keepsPulses_rs (v : Bool) : KeepsPulses c [.emit (.rs v)] := by
  rintro rest hrest k n ⟨rfl, hlow, hsettled⟩
  exact planKeeps_emit_iff.2 ⟨_, PulseClocks.after_rs_iff.2 ⟨hlow, hsettled, rfl⟩, hrest _ _ ⟨rfl, hlow, hsettled⟩⟩

/-- A nibble: D, `T_SETUP`, E high for `T_PW`, E low for `T_SETTLE` (R132, R133). -/
theorem keepsPulses_sendNibble (v : Nat) : KeepsPulses c (sendNibble c v) := by
  rintro rest hrest k n ⟨rfl, hlow, hsettled⟩
  have hd := PulseClocks.after_d_iff (v := maskNibble v).2 ⟨hlow, hsettled, rfl⟩
  have hrise := PulseClocks.after_rise_iff (k := { k with dataAt := some n }).2
    ⟨hlow, (elapsed_some n k.cfg.tSetup _).2 le_rfl, elapsed_mono hsettled le_self_add, rfl⟩
  have hfall := PulseClocks.after_fall_iff
    (k := { k with dataAt := some n, e := true, riseAt := some (n + k.cfg.tSetup) }).2
    ⟨rfl, (elapsed_some (n + k.cfg.tSetup) k.cfg.tPw _).2 le_rfl, rfl⟩
  refine planKeeps_emit_iff.2 ⟨_, hd, planKeeps_emit_iff.2 ⟨_, hrise, planKeeps_emit_iff.2 ⟨_, hfall, hrest _ _ ?_⟩⟩⟩
  exact ⟨rfl, rfl, (elapsed_some _ _ _).2 le_rfl⟩

theorem keepsPulses_sendByte (b : Byte) (isData : Bool) : KeepsPulses c (sendByte c b isData) :=
  ((keepsPulses_rs isData).append (keepsPulses_sendNibble _)).append (keepsPulses_sendNibble _)

theorem keepsPulses_rawNibble (v : Nat) (d : Time) : KeepsPulses c (rawNibble c v d) :=
  (keepsPulses_sendNibble v).append (keepsPulses_hold d)

theorem keepsPulses_instructionByte (b : Byte) (d : Time) : KeepsPulses c (instructionByte c b d) :=
  (keepsPulses_sendByte b false).append (keepsPulses_hold d)

/-- INIT: RS, four raw nibbles, four instruction bytes, the flag (R170). -/
theorem keepsPulses_initBody : KeepsPulses c (initBody c) := by
  have hraw := ((((keepsPulses_rs (c := c) false).append (keepsPulses_rawNibble 0x3 c.tInitA)).append
    (keepsPulses_rawNibble 0x3 c.tInitB)).append (keepsPulses_rawNibble 0x3 c.tInitC)).append
    (keepsPulses_rawNibble 0x2 c.tExec)
  have hbytes := (((hraw.append (keepsPulses_instructionByte 0x28#8 c.tExec)).append
    (keepsPulses_instructionByte 0x0C#8 c.tExec)).append (keepsPulses_instructionByte 0x06#8 c.tExec)).append
    (keepsPulses_instructionByte 0x01#8 c.tClear)
  exact hbytes.append (keepsPulses_setFlag .initialized true)

/-- Every command's expansion keeps the contract from settled pins (R246, R247). -/
theorem bodyOf_keepsPulses (i : Instr) : KeepsPulses c (bodyOf c i) := by
  cases i with
  | init => exact keepsPulses_initBody
  | clear => exact keepsPulses_instructionByte _ _
  | setcur row column => exact keepsPulses_instructionByte _ _
  | putc char => exact (keepsPulses_sendByte char true).append (keepsPulses_hold _)
  | sendb isData value => exact (keepsPulses_sendByte value isData).append (keepsPulses_hold _)
  | sendn nibble => exact keepsPulses_sendNibble _

/-- What an acceptance loads keeps the contract from settled pins, whether the checks pass or not (R38, R212). -/
theorem State.accepted_keepsPulses (s : State) : KeepsPulses s.cfg s.accepted.exp := by
  rcases s.accepted_cases with ⟨i, -, -, ha⟩ | ⟨r, -, ha⟩
  · rw [ha, State.load_exp]
    exact (bodyOf_keepsPulses i).append (keepsPulses_complete .ok)
  · rw [ha, State.load_exp]
    exact keepsPulses_complete r

/-! ### Every step keeps the contract -/

theorem pulseMonitor_append_singleton (c : Cfg) (tr : Trace) (n : Time) (ev : Event) :
    pulseMonitor c (tr ++ [(n, ev)]) = (pulseMonitor c tr).bind (fun k => k.after n ev) := by
  simp [pulseMonitor]

/-- A primitive of a legal plan, with no hold pending, keeps the contract: its gap only puts the plan off. -/
theorem State.PulseContract.perform {p : Prim} (h : s.PulseContract) (hs : s.Legal) (hbusy : s.busy = true)
    (hhold : s.hold = 0) (hp : s.exp[s.upc]? = some p) : (s.perform p).PulseContract := by
  obtain ⟨c, k, hmonitor, hcfg, hplan⟩ := h
  rw [s.drop_eq_cons p hp, hhold, add_zero] at hplan
  refine ⟨c, ?_⟩
  cases p with
  | hold d => exact ⟨k, hmonitor, hcfg, by simpa [State.perform, planKeeps, hhold] using hplan⟩
  | setFlag f b => cases f; exact ⟨k, hmonitor, hcfg, by simpa [State.perform, planKeeps, hhold] using hplan⟩
  | complete r =>
    have hshape := hs.planShape_cons hbusy hp
    simp only [planShape, Bool.and_eq_true, List.isEmpty_iff] at hshape
    rw [planKeeps, hshape.2] at hplan
    refine ⟨k, ?_, hcfg, planKeeps_mono hplan (le_self_add.trans le_self_add)⟩
    rw [State.perform, State.complete_trace, pulseMonitor_append_singleton, hmonitor]
    rfl
  | emit w =>
    obtain ⟨k', hk', hrest⟩ := planKeeps_emit_iff.1 hplan
    obtain ⟨j, hj, hlags⟩ := (k.lags_refl (s.cfg.gap s.freeCount)).after hk'
    obtain ⟨hupc, hexp, -, -, -⟩ := s.perform_plain (.emit w) rfl
    refine ⟨j, ?_, ((PulseClocks.after_pin_cfg hj).trans hcfg).trans (s.perform_cfg _).symm, ?_⟩
    · rw [State.perform, State.advance_trace, State.emit_trace, pulseMonitor_append_singleton, hmonitor]
      exact hj
    · rw [hupc, hexp]
      simpa [State.perform, State.emit, hhold] using planKeeps_of_lags hlags hrest

theorem Reaches.pulseContract (h : Reaches s t) (hs : s.Legal) (hp : s.PulseContract) : t.PulseContract := by
  induction h with
  | refl => exact hp
  | tail hr hstep ih =>
    rcases hstep.cases with ⟨-, rfl⟩ | ⟨hhold, p, hp, rfl⟩
    · obtain ⟨c, k, hmonitor, hcfg, hplan⟩ := ih
      exact ⟨c, k, hmonitor, hcfg, by simpa using hplan⟩
    · exact ih.perform (Reaches.legal hr hs) hstep.1 hhold hp

/-- An idle engine's pins are settled, so the accepted word's expansion keeps the contract (R246, R247). -/
theorem State.PulseContract.accepted (h : s.PulseContract) (hs : s.Legal) (hbusy : s.busy = false) :
    s.accepted.PulseContract := by
  obtain ⟨c, k, hmonitor, hcfg, hplan⟩ := h
  obtain ⟨hexp, -, hhold, -⟩ := hs.idle hbusy
  rw [hexp, List.drop_nil, planKeeps_nil_iff, hcfg] at hplan
  refine ⟨c, k, ?_, hcfg.trans s.accepted_cfg.symm, ?_⟩
  · rw [State.accepted_trace, pulseMonitor_append_singleton, hmonitor]
    rfl
  · rw [State.accepted_upc, List.drop_zero]
    refine s.accepted_keepsPulses.planKeeps (hplan.mono ?_)
    rw [hhold, add_zero, State.accepted_now]
    exact le_self_add.trans le_self_add

/-- A reset edge starts the clocks again, under the configuration it takes (R9, R242). -/
theorem State.PulseContract.applyReset (h : s.PulseContract) : s.applyReset.PulseContract := by
  obtain ⟨c, k, hmonitor, -, -⟩ := h
  refine ⟨c, PulseClocks.start s.platformCfg, ?_, rfl, rfl⟩
  rw [State.applyReset, State.record_trace, pulseMonitor_append_singleton, hmonitor]
  rfl

/-- Settles O47: a step is a reset, or engine steps from the state itself or from its acceptance, which keep the
contract with the sequencer legal. -/
theorem stepKeepsThePulseContract : Obligations.StepKeepsThePulseContract := by
  unfold Obligations.StepKeepsThePulseContract
  intro s t hs hp h
  rcases step_reaches h with ⟨-, rfl⟩ | ⟨-, -, hr⟩ | ⟨-, hbusy, -, hr⟩ | ⟨-, -, -, rfl⟩
  · exact hp.applyReset
  · exact hr.pulseContract hs hp
  · exact hr.pulseContract (State.accepted_legal hs hbusy) (hp.accepted hs hbusy)
  · exact hp

end Sys2Proof.Machine
end

section
/-! Reset and hazards: what an edge with `rst` = 1 restores (R240 to R242), commands before INIT (R253), the minimum
time of a command (R258), and an INIT that comes too early for the controller (R245). -/

namespace Sys2Proof.Machine

variable {s t : State}

/-! ### Reset -/

/-- Settles O1: the values of `State.reset`, and an idle engine with nothing presented waits. -/
theorem resetLeavesEngineIdleAndPinsLow : Obligations.ResetLeavesEngineIdleAndPinsLow := by
  unfold Obligations.ResetLeavesEngineIdleAndPinsLow
  exact ⟨rfl, rfl, rfl, rfl, rfl, rfl, rfl, rfl, idleEngineWaits _ rfl rfl rfl⟩

/-- Settles O2: the step is the reset edge, which writes every element and keeps the host's side. -/
theorem rstEdgeRestoresEveryElement : Obligations.RstEdgeRestoresEveryElement := by
  unfold Obligations.RstEdgeRestoresEveryElement
  intro s hrst
  have hready : s.applyReset.cmdReady = false := by simp [State.cmdReady, State.applyReset, hrst]
  have hevents : eventsOf s.applyReset.trace = eventsOf s.trace ++ [.reset s.platformCfg] := by
    simp [State.applyReset, eventsOf]
  exact ⟨_, step_of_rst_high hrst, rfl, rfl, rfl, rfl, rfl, rfl, rfl, rfl, rfl, rfl, rfl, rfl, hready, rfl, hrst, rfl,
    rfl, rfl, rfl, rfl, rfl, hevents⟩

/-! ### Commands before INIT -/

/-- A command that needs INIT fails that check on an uninitialized engine, where no check before it fails (R212). -/
theorem State.acceptCheck_notInitialized (hcfg : s.cfgOk = true) (hinit : s.initialized = false) :
    s.acceptCheck false false true = .notInitialized := by
  simp [State.acceptCheck, hcfg, hinit]

/-- Settles O28: each of the four fails the check NOT_INITIALIZED, and a failed check emits nothing. -/
theorem commandsBeforeInitGiveNotInitialized : Obligations.CommandsBeforeInitGiveNotInitialized := by
  unfold Obligations.CommandsBeforeInitGiveNotInitialized
  intro s i hwait hcfg hinit hi
  have hc : checkOf s i = .notInitialized := by
    rcases hi with rfl | ⟨c, rfl⟩ | ⟨c, rfl⟩ | ⟨c, rfl⟩ | ⟨d, v, rfl⟩ <;>
      exact State.acceptCheck_notInitialized hcfg hinit
  obtain ⟨t, hexec, hcompleted, hpins, hinit', huntouched, hevents, -⟩ :=
    exec_rejected_completes hwait (i := i) (by simp [hc])
  rw [hc] at hcompleted hevents
  exact ⟨t, hexec, hcompleted, hpins, hinit'.trans hinit, huntouched, hevents⟩

/-! ### The minimum time of a command -/

/-- One nibble takes its setup, pulse width and settle times (R132, R133). -/
theorem sendNibble_holdTime (c : Cfg) (n : Nat) :
    ((sendNibble c n).map Prim.holdTime).sum = c.tSetup + c.tPw + c.tSettle := by
  simp [sendNibble, pulseEnable, Prim.holdTime, add_assoc]

theorem sendByte_holdTime (c : Cfg) (b : Byte) (isData : Bool) :
    ((sendByte c b isData).map Prim.holdTime).sum = 2 * (c.tSetup + c.tPw + c.tSettle) := by
  simp [sendByte, sendNibble_holdTime, Prim.holdTime, two_mul]

theorem rawNibble_holdTime (c : Cfg) (n : Nat) (d : Time) :
    ((rawNibble c n d).map Prim.holdTime).sum = c.tSetup + c.tPw + c.tSettle + d := by
  simp [rawNibble, sendNibble_holdTime, Prim.holdTime]

theorem instructionByte_holdTime (c : Cfg) (b : Byte) (d : Time) :
    ((instructionByte c b d).map Prim.holdTime).sum = 2 * (c.tSetup + c.tPw + c.tSettle) + d := by
  simp [instructionByte, sendByte_holdTime, Prim.holdTime]

/-- R258's table is the sum of an expansion's holds. -/
theorem bodyOf_holdTime (c : Cfg) (i : Instr) : ((bodyOf c i).map Prim.holdTime).sum = minimumTime c i := by
  cases i with
  | init =>
    simp only [bodyOf, initBody, List.map_append, List.sum_append, rawNibble_holdTime, instructionByte_holdTime,
      minimumTime, List.map_cons, List.map_nil, Prim.holdTime, List.sum_cons, List.sum_nil]
    ring
  | clear => exact instructionByte_holdTime _ _ _
  | setcur row column => exact instructionByte_holdTime _ _ _
  | putc char => simp [bodyOf, putcBody, sendByte_holdTime, Prim.holdTime, minimumTime]
  | sendb isData value =>
    simp only [bodyOf, sendbBody, List.map_append, List.sum_append, sendByte_holdTime, minimumTime, holdAfter,
      longInstruction, List.map_cons, List.map_nil, Prim.holdTime, List.sum_cons, List.sum_nil, add_zero]
    cases isData with
    | true => simp
    | false => simp [or_assoc, add_ite]
  | sendn nibble => exact sendNibble_holdTime _ _

/-- Every expansion starts with a pin write (R170, R190, R193, R135). -/
theorem bodyOf_starts_with_emit (c : Cfg) (i : Instr) : ∃ p ps, bodyOf c i = .emit p :: ps := by
  cases i <;> exact ⟨_, _, rfl⟩

theorem State.performAll_trace (ps : List Prim) (s : State) : ∃ evs, (s.performAll ps).trace = s.trace ++ evs := by
  induction ps generalizing s with
  | nil => exact ⟨[], by simp⟩
  | cons p ps ih =>
    obtain ⟨evs, hp, -⟩ := s.elapse.perform_trace p
    obtain ⟨more, hps⟩ := ih (s.elapse.perform p)
    exact ⟨evs ++ more, by rw [State.performAll_cons, hps, hp, State.elapse_trace, List.append_assoc]⟩

/-- From a pin write on, an expansion's holds pass before the `Done` that ends it, and nothing else where `SLACK` = 0
(R131, R258). -/
theorem State.performAll_complete_time (s : State) (p : PinWrite) (ps : List Prim) (r : ResultCode) :
    ∃ first,
      (((s.performAll (.emit p :: ps)).elapse.complete r).trace)[s.trace.length]? = some (first, .pin p) ∧
      first + (ps.map Prim.holdTime).sum ≤ ((s.performAll (.emit p :: ps)).elapse.complete r).now ∧
      (s.cfg.slack = some 0 →
        ((s.performAll (.emit p :: ps)).elapse.complete r).now = first + (ps.map Prim.holdTime).sum) := by
  have hhold : (s.elapse.perform (.emit p)).hold = 0 := by simp [State.perform, State.emit]
  have htrace : (s.elapse.perform (.emit p)).trace = s.trace ++ [((s.elapse.perform (.emit p)).now, .pin p)] := by
    simp [State.perform]
  obtain ⟨evs, hmore⟩ := State.performAll_trace ps (s.elapse.perform (.emit p))
  obtain ⟨hleast, hexact⟩ := State.performAll_time ps (s.elapse.perform (.emit p))
  rw [hhold, add_zero] at hleast hexact
  refine ⟨(s.elapse.perform (.emit p)).now, ?_, ?_, fun hslack => ?_⟩
  · simp only [State.performAll_cons, State.complete_trace, State.elapse_trace, hmore]
    rw [htrace]
    simp
  · exact hleast.trans (by simp)
  · rw [State.complete_now, gap_slack_zero _ _ (by simpa using hslack), add_zero]
    exact hexact (by simpa using hslack)

/-- Settles O23: an expansion starts with a pin write, and R258's table is the sum of its holds. -/
theorem commandsTakeTheirMinimumTime : Obligations.CommandsTakeTheirMinimumTime := by
  unfold Obligations.CommandsTakeTheirMinimumTime
  intro s i hwait hc
  obtain ⟨p, ps, hbody⟩ := bodyOf_starts_with_emit s.cfg i
  have hmin : (ps.map Prim.holdTime).sum = minimumTime s.cfg i := by
    rw [← bodyOf_holdTime, hbody, List.map_cons, List.sum_cons, Prim.holdTime, zero_add]
  obtain ⟨b, hb⟩ : ∃ b, s.atAcceptance i = { s with initialized := b } := by
    rcases s.atAcceptance_cases i with h | ⟨-, h⟩
    · exact ⟨s.initialized, h⟩
    · exact ⟨false, h⟩
  obtain ⟨first, hpin, hleast, hexact⟩ :=
    ((s.atAcceptance i).load (bodyOf s.cfg i ++ [.complete .ok])).performAll_complete_time p ps .ok
  rw [← hbody, hmin, hb] at hleast hexact
  rw [← hbody, hb] at hpin
  refine ⟨_, p, first, exec_ok s i hwait hc, ?_, by simp, ?_, ?_⟩ <;> rw [hb]
  exacts [hpin, hleast, hexact]

/-! ### An INIT that comes too early -/

section Tracker

variable {k : Tracker}

/-- The reading is lost, and nothing before the next INIT can bring it back (R86). -/
structure Tracker.Blind (k : Tracker) : Prop where
  unread : k.poisoned = true ∨ k.cfg.conforming = false ∨ k.view = View.unknown
  unclean : k.initClean = false

theorem Tracker.reading_eq_unknown_iff :
    k.reading = View.unknown ↔ k.poisoned = true ∨ k.cfg.conforming = false ∨ k.view = View.unknown := by
  cases hp : k.poisoned <;> cases hc : k.cfg.conforming <;> simp [Tracker.reading, hp, hc]

theorem Tracker.Blind.reading (h : k.Blind) : k.reading = View.unknown := Tracker.reading_eq_unknown_iff.2 h.unread

theorem Tracker.poison_blind (k : Tracker) : k.poison.Blind := ⟨.inl rfl, rfl⟩

theorem Tracker.Blind.checkHolds (h : k.Blind) (n : Time) : (k.checkHolds n).Blind := by
  unfold Tracker.checkHolds
  split
  · exact h
  · exact k.poison_blind

theorem Tracker.Blind.pass (h : k.Blind) (n : Time) : (k.pass n).Blind := ⟨h.unread, h.unclean⟩

theorem Tracker.Blind.latch (h : k.Blind) (ctrl : CtrlNextAc) : (k.latch ctrl).Blind := by
  unfold Tracker.latch
  split
  · exact ⟨.inl rfl, rfl⟩
  · refine ⟨?_, h.unclean⟩
    rcases h.unread with hp | hc | hv
    · exact .inl hp
    · exact .inr (.inl hc)
    · exact .inr (.inr (by simp [hv, View.latch_unknown]))

theorem Tracker.Blind.onPin (h : k.Blind) (ctrl : CtrlNextAc) (p : PinWrite) : (k.onPin ctrl p).Blind := by
  match p with
  | .rs _ | .d _ | .e true => exact ⟨h.unread, h.unclean⟩
  | .e false =>
    obtain ⟨hunread, hunclean⟩ := h.latch ctrl
    simp only [Tracker.onPin]
    split
    · exact ⟨hunread, hunclean⟩
    · exact h

/-- A completion makes the view readable only at the end of a clean INIT (R86). -/
theorem Tracker.Blind.onDone (h : k.Blind) (r : ResultCode) : (k.onDone r).Blind := by
  simp only [Tracker.onDone, h.unclean, Bool.false_eq_true, and_false, if_false]
  exact ⟨h.unread, rfl⟩

theorem Tracker.Blind.onEvent_pin (h : k.Blind) (ctl : Controller) (n : Time) (p : PinWrite) :
    (k.onEvent ctl (n, .pin p)).Blind :=
  ((h.checkHolds n).pass n).onPin ctl.nextAc p

theorem Tracker.Blind.onEvent_done (h : k.Blind) (ctl : Controller) (n : Time) (r : ResultCode) :
    (k.onEvent ctl (n, .done r)).Blind := by
  cases r with
  | ok => exact ((h.checkHolds n).pass n).onDone .ok
  | invalidArgument | illegalCommand | notInitialized | configError => exact (h.pass n).onDone _

/-- The acceptance of a word that is not INIT brings no reading back (R86). -/
theorem Tracker.onAccept_blind {w : Word} (hread : k.reading = View.unknown) (hw : decode w ≠ .ok .init) (supplyUp : ℚ)
    (n : Time) : (k.onAccept supplyUp n w).Blind := by
  have hunread := Tracker.reading_eq_unknown_iff.1 hread
  unfold Tracker.onAccept
  split
  · next i hd =>
    rw [if_neg fun hi : i = .init ∧ k.cfg.pinsOk => hw (hi.1 ▸ hd)]
    exact ⟨hunread, rfl⟩
  · exact ⟨hunread, rfl⟩

/-- The acceptance of an INIT before `T_POWERON` has passed loses the reading (R245). -/
theorem Tracker.onAccept_tooEarly_blind {w : Word} (hd : decode w = .ok .init) (hcfg : k.cfg.pinsOk = true)
    {supplyUp : ℚ} {n : Time} (hearly : powerOnMet k.cfg supplyUp n = false) : (k.onAccept supplyUp n w).Blind := by
  simp only [Tracker.onAccept, hd, hcfg, hearly, and_self, if_true, Bool.false_eq_true, if_false]
  exact ⟨.inl rfl, rfl⟩

end Tracker

theorem State.perform_blind {ctl : Controller} {c : Cfg} (p : Prim) (h : (track ctl c s.trace).Blind) :
    (track ctl c (s.perform p).trace).Blind := by
  cases p with
  | hold d => exact h
  | setFlag f b => cases f; exact h
  | emit w =>
    rw [State.perform, State.advance_trace, State.emit_trace, track_append_singleton]
    exact h.onEvent_pin ctl _ w
  | complete r =>
    rw [State.perform, State.complete_trace, track_append_singleton]
    exact h.onEvent_done ctl _ r

/-- Where the acceptance leaves the observer blind, so does the step that accepts. -/
theorem controller_unknown_of_accept_blind {ctl : Controller} {w : Word} (ha : s.Accepting w) (hstep : step s = .next t)
    (hblind : ((track ctl s.cfg s.trace).onAccept ctl.supplyUp s.latch.now w).Blind) :
    t.controller ctl = View.unknown := by
  obtain ⟨hrst, hbusy, hvalid, rfl⟩ := ha
  have hreach : Reaches s.accepted t := reaches_of_proceed s.accepted_busy (step_accepts hrst hbusy hvalid ▸ hstep)
  have haccepted : (track ctl s.cfg s.accepted.trace).Blind := by
    rw [State.accepted_trace, track_append_singleton, ← s.latch_now]
    exact hblind
  have hend : (track ctl s.cfg t.trace).Blind :=
    hreach.keeps (fun u => (track ctl s.cfg u.trace).Blind) (fun _ hu => hu) (fun p _ => State.perform_blind p)
      haccepted
  rw [State.controller, observe, hreach.untouched.cfg, State.accepted_cfg]
  exact hend.reading

/-- Settles O60: a too-early INIT and, from an unknown reading, any other word leave the observer blind at
acceptance. -/
theorem tooEarlyInitLeavesTheControllerUnknown : Obligations.TooEarlyInitLeavesTheControllerUnknown := by
  unfold Obligations.TooEarlyInitLeavesTheControllerUnknown
  intro s ctl hwait
  refine ⟨fun hs ha hcfg hearly => ?_, fun w ha hw hread => ?_⟩
  · have hd : decode 0x1000#16 = .ok .init := decode_encode .init
    have hc := checkOf_init_ok hcfg
    have hstep := step_completes ha hwait hd hc
    have hexec := (step_of_decoded ha.rst ha.busy ha.valid (ha.word ▸ hd)).symm.trans hstep
    have hcfg' : (track ctl s.cfg s.trace).cfg = s.cfg := (track_cfg _ _ _).trans hs.config
    have hblind : ((track ctl s.cfg s.trace).onAccept ctl.supplyUp s.latch.now 0x1000#16).Blind := by
      refine Tracker.onAccept_tooEarly_blind hd ?_ ?_ <;> rw [hcfg']
      · exact hcfg
      · exact Bool.eq_false_of_not_eq_true hearly
    exact ⟨_, hstep, ⟨rfl, rfl, rfl, rfl, rfl, rfl⟩,
      exec_init_initialized (s.latch_hostWait.trans hwait) ((checkOf_latch s .init).trans hc) hexec,
      controller_unknown_of_accept_blind ha hstep hblind⟩
  · obtain ⟨t, hstep, -⟩ := acceptedWordCompletesWithItsCheck s w ha hwait
    exact ⟨t, hstep, controller_unknown_of_accept_blind ha hstep (Tracker.onAccept_blind hread hw _ _)⟩

end Sys2Proof.Machine
end
